-- ==== Sys2Proof/Word.lean ====
section
/-! DEFINITION. The bit vectors of the block: the words the spec treats as bits, each at the one width the spec gives it. -/

namespace Sys2Proof

/-- An 8-bit value: the expander output byte, format `OUT` (`30_encoding.md` R41). -/
abbrev Byte := BitVec 8

/-- The place of a signal in the output byte, 0 to 7 (`10_state.md` R12). -/
abbrev Position := BitVec 3

/-- The four data lines as one value, bit `i` for line D(4+i) (`30_encoding.md` R43). -/
abbrev Nibble := BitVec 4

/-- A device address of the I2C bus (`20_memory.md` R25). -/
abbrev BusAddr := BitVec 7

/-- A run-time command word, format `CMD` (`30_encoding.md` R48). -/
abbrev CmdWord := BitVec 6

/-- A configuration word, format `CFG` (`30_encoding.md` R47). -/
abbrev CfgWord := BitVec 32

end Sys2Proof
end

