-- ==== Sys2Proof/Syntax.lean ====
section
/-! DEFINITION. The instructions of the block, one constructor per row of the opcode table; the PinMap they carry; the words in
which they are presented; and the calls with plain numbers of the textual form. -/

namespace Sys2Proof

/-- The eight logical signals (`00_scope.md` R5, `10_state.md` R12), in the order in which the spec lists them. -/
inductive Signal where
  | rs | rw | e | d4 | d5 | d6 | d7 | bl
  deriving DecidableEq, Repr

/-- All eight signals, in the spec's order. -/
def Signal.all : List Signal := [.rs, .rw, .e, .d4, .d5, .d6, .d7, .bl]

/-- The PinMap: the position of each signal in the output byte (`10_state.md` R12). Distinctness is not part of the type: it is
what construction checks (`40_pinmap_decoder.md` R62). -/
structure PinMap where
  rs : Position
  rw : Position
  e  : Position
  d4 : Position
  d5 : Position
  d6 : Position
  d7 : Position
  bl : Position
  deriving DecidableEq, Repr

/-- The six operations: four run-time ones and the two forms of `CONFIGURE` (`00_scope.md` R2, `30_encoding.md` R48,
`40_pinmap_decoder.md` R60, R61). -/
inductive Instr where
  /-- `SET_CONTROL(rs, rw)`, `41_latch_write_ops.md` R69. -/
  | setControl (rs rw : Bool)
  /-- `SET_DATA_NIBBLE(n)`, `41_latch_write_ops.md` R70. -/
  | setDataNibble (n : Nibble)
  /-- `PULSE_ENABLE`, `42_pulse_enable.md` R78. -/
  | pulseEnable
  /-- `SET_BACKLIGHT(on)`, `41_latch_write_ops.md` R71. -/
  | setBacklight (on : Bool)
  /-- `CONFIGURE_DEFAULT`, `40_pinmap_decoder.md` R60. -/
  | configureDefault (addr : BusAddr)
  /-- `CONFIGURE_OVERRIDE`, `40_pinmap_decoder.md` R61. -/
  | configureOverride (addr : BusAddr) (pm : PinMap)
  deriving DecidableEq, Repr

/-- A word presented to the block: a command word at the command interface (`30_encoding.md` R48), or a configuration word
sampled at reset (`30_encoding.md` R47, `70_reset_and_hazards.md` R102). -/
inductive Request where
  | command (w : CmdWord)
  | configure (w : CfgWord)
  deriving DecidableEq, Repr

/-- The PinMap choice of a textual `configure` call, with plain numbers for positions (`30_encoding.md` R54). -/
inductive PinChoice where
  | default
  | override (rs rw e d4 d5 d6 d7 bl : Nat)
  deriving DecidableEq, Repr

/-- A line of a program in the spec's textual form (`30_encoding.md` R54). Its numbers can lie outside the operand types. -/
inductive Call where
  | setControl (rs rw : Bool)
  | setDataNibble (n : Nat)
  | pulseEnable
  | setBacklight (on : Bool)
  | configure (addr : Nat) (choice : PinChoice)
  deriving DecidableEq, Repr

end Sys2Proof
end

