-- ==== Sys2Proof/WellFormed.lean ====
section
/-! DEFINITION. What makes an operation well formed: the one constraint the opcode table states (an override PinMap has eight
distinct positions), and the operand ranges of the textual calls. -/

namespace Sys2Proof

/-- The eight positions in the spec's order of signals. -/
def PinMap.positions (pm : PinMap) : List Position :=
  [pm.rs, pm.rw, pm.e, pm.d4, pm.d5, pm.d6, pm.d7, pm.bl]

/-- `valid(pm)`: the eight positions are pairwise distinct (`40_pinmap_decoder.md` R62, form (a)). -/
abbrev PinMap.Valid (pm : PinMap) : Prop := pm.positions.Nodup

/-- The `constraint` of the opcode table's row `CONFIGURE_OVERRIDE`; every other operand is legal by its type
(`40_pinmap_decoder.md` R62: the address is not validated, and the run-time operands need no check). An override that is not
well formed is still an instruction: it raises `ConfigError`. -/
abbrev Instr.WellFormed : Instr → Prop
  | .setControl _ _ => True
  | .setDataNibble _ => True
  | .pulseEnable => True
  | .setBacklight _ => True
  | .configureDefault _ => True
  | .configureOverride _ pm => pm.Valid

/-- The run-time operations, the rows of format `CMD` (`30_encoding.md` R48). -/
abbrev Instr.IsCommand : Instr → Prop
  | .setControl _ _ => True
  | .setDataNibble _ => True
  | .pulseEnable => True
  | .setBacklight _ => True
  | .configureDefault _ => False
  | .configureOverride _ _ => False

/-- Every position of a textual PinMap choice lies in 0 to 7 (`40_pinmap_decoder.md` R64). -/
def PinChoice.inRange : PinChoice → Bool
  | .default => true
  | .override rs rw e d4 d5 d6 d7 bl => [rs, rw, e, d4, d5, d6, d7, bl].all (· < 8)

/-- The positions of a textual PinMap choice are pairwise distinct (`40_pinmap_decoder.md` R62). -/
def PinChoice.distinct : PinChoice → Bool
  | .default => true
  | .override rs rw e d4 d5 d6 d7 bl => decide [rs, rw, e, d4, d5, d6, d7, bl].Nodup

/-- The operand ranges of the textual calls (`30_encoding.md` R54, R49): a nibble 0 to 15, an address 0 to 127, positions 0 to 7
and pairwise distinct. -/
def Call.wellFormed : Call → Bool
  | .setControl _ _ => true
  | .setDataNibble n => decide (n < 16)
  | .pulseEnable => true
  | .setBacklight _ => true
  | .configure addr choice => decide (addr < 128) && choice.inRange && choice.distinct

end Sys2Proof
end

