-- ==== Sys2Proof/Config.lean ====
section
/-! DEFINITION. What one implementation or one environment fixes: the open parameters of `00_scope.md` R5, and the two free values: what
answers the block's bus writes, and what the pins hold before the first of them. -/

namespace Sys2Proof

/-- `TransportError`, the transport's own error value. The spec makes it an opaque type (`00_scope.md` R5, D24): here a value is
only a name, and nothing in the model looks at it.
DESIGN CHOICE (log 20), safe. -/
structure TransportError where
  code : Nat
  deriving DecidableEq, Repr

/-- What the transport answers when it is asked about one bus write (`20_memory.md` R27, R29, R32, R39). -/
inductive Answer where
  /-- The write succeeded. -/
  | ok
  /-- The write failed with `x`; `landed` is the environment's draw whether the byte reached the pins all the same (R32, D16). -/
  | err (x : TransportError) (landed : Bool)
  /-- The transport has not answered yet: the block goes on waiting (R39, U10). -/
  | silent
  deriving DecidableEq, Repr, Inhabited

/-- The free value of `20_memory.md` R29: the answer to the `n`-th question put to the transport. It has no body.
DESIGN CHOICE (log 5), safe. -/
opaque Config.transportAnswer : Nat → Answer

/-- The free value of `20_memory.md` R32: the byte on the pins of the device at an address before a byte of the block first lands
there, any 8-bit value (D17, U8). It has no body.
DESIGN CHOICE (log 8), safe. -/
opaque Config.initialPins : Nat → Byte

/-- `ADDR`, the address configured at reset: an open parameter (`10_state.md` R11, D6).
DESIGN CHOICE (log 2), safe. -/
opaque Config.addr : BusAddr

/-- The documented default layout as an assignment of the eight positions to the eight signals, one to one, otherwise
unconstrained (`10_state.md` R13, D5). It has no body.
DESIGN CHOICE (log 3), safe. -/
opaque Config.defaultLayout : Equiv.Perm (Fin 8)

/-- `DEFAULT_PINMAP` (`10_state.md` R13): the default layout as a PinMap, signals in the spec's order. -/
def Config.defaultPinMap : PinMap where
  rs := BitVec.ofFin (Config.defaultLayout 0)
  rw := BitVec.ofFin (Config.defaultLayout 1)
  e  := BitVec.ofFin (Config.defaultLayout 2)
  d4 := BitVec.ofFin (Config.defaultLayout 3)
  d5 := BitVec.ofFin (Config.defaultLayout 4)
  d6 := BitVec.ofFin (Config.defaultLayout 5)
  d7 := BitVec.ofFin (Config.defaultLayout 6)
  bl := BitVec.ofFin (Config.defaultLayout 7)

/-- `RESET_RS`: the spec states no value and suggests 0 (`10_state.md` R23, D7). DESIGN CHOICE (log 4), unsafe. -/
def Config.resetRs : Bool := false

/-- `RESET_RW`: the spec states no value and suggests 0 (`10_state.md` R23, D7). DESIGN CHOICE (log 4), unsafe. -/
def Config.resetRw : Bool := false

/-- `RESET_NIB`: the spec states no value and suggests 0 (`10_state.md` R23, D7). DESIGN CHOICE (log 4), unsafe. -/
def Config.resetNib : Nibble := 0#4

/-- `RESET_BL`: the backlight is on, the spec's own value (`00_scope.md` R5, `10_state.md` R23). -/
def Config.resetBl : Bool := true

end Sys2Proof
end

