-- ==== Sys2Proof/Machine/State.lean ====
section
/-! DEFINITION. The state of the machine (`10_state.md` R10): the configuration, the lifecycle status, the latch and the sequencer
phase of the block; the pins of the environment and the bus trace, which rules read; and the inputs the block waits for. -/

namespace Sys2Proof.Machine

/-- The lifecycle status `st` (`10_state.md` R24, D22). -/
inductive Lifecycle where
  | unconfigured | ready | configError
  deriving DecidableEq, Repr

/-- The 2-bit code of a lifecycle status (`10_state.md` R24); code 3 is never taken. -/
def Lifecycle.code : Lifecycle → BitVec 2
  | .unconfigured => 0
  | .ready => 1
  | .configError => 2

/-- The sequencer phase `ph` (`10_state.md` R17, D12). -/
inductive Phase where
  | idle | write | pulseHi | pulseLo
  deriving DecidableEq, Repr

/-- The 2-bit code of a phase (`10_state.md` R17). -/
def Phase.code : Phase → BitVec 2
  | .idle => 0
  | .write => 1
  | .pulseHi => 2
  | .pulseLo => 3

/-- The latch `S`, the source's AdapterState (`10_state.md` R14): the last values given for RS, RW, the data nibble and the
backlight. The enable level is no field of it (R16). -/
structure Latch where
  rs  : Bool
  rw  : Bool
  nib : Nibble
  bl  : Bool
  deriving DecidableEq, Repr

/-- The result of a bus write as the trace records it (`10_state.md` R20). -/
inductive Verdict where
  | ok
  | err (x : TransportError)
  deriving DecidableEq, Repr

/-- One event of the bus trace (`10_state.md` R20, `30_encoding.md` R53). -/
structure BusEvent where
  addr   : BusAddr
  byte   : Byte
  result : Verdict
  deriving DecidableEq, Repr

/-- The answer to a request, format `STS` (`30_encoding.md` R51, `60_exceptions.md` R88). -/
inductive Status where
  | ok
  | busError (x : TransportError)
  | configError
  deriving DecidableEq, Repr

/-- The environment's side of the one address space: the byte that the device at each 7-bit address holds on its pins
(`20_memory.md` R25, R32). Addresses rise strictly; an address that is not listed holds the byte it held before any write of the
block, the free value `Config.initialPins` (log 8). -/
abbrev Memory := List Host.Cell

/-- The state of the block and of what its rules read. -/
@[ext]
structure State where
  /-- `ADDR` (`10_state.md` R11). -/
  addr      : BusAddr
  /-- `PM` (`10_state.md` R12). -/
  pm        : PinMap
  /-- `st` (`10_state.md` R24). -/
  st        : Lifecycle
  /-- `S` (`10_state.md` R14). -/
  latch     : Latch
  /-- `ph` (`10_state.md` R17). -/
  ph        : Phase
  /-- `T`, the bus trace since construction, oldest first (`10_state.md` R20). -/
  trace     : List BusEvent
  /-- The pins (`10_state.md` R21, `20_memory.md` R32). -/
  mem       : Memory
  /-- The answers given to the host, oldest first (`30_encoding.md` R51, `70_reset_and_hazards.md` R113).
  DESIGN CHOICE (log 19), safe. -/
  responses : List Status
  /-- The words presented to the block and not yet taken, oldest first (`30_encoding.md` R48, `42_pulse_enable.md` R84).
  The model's own field. DESIGN CHOICE (log 9), safe. -/
  requests  : List Request
  /-- The transport's answers that are already fixed, oldest first (`20_memory.md` R29).
  The model's own field. DESIGN CHOICE (log 5), safe. -/
  answers   : List Answer
  /-- How many answers were taken, the argument of the free value `Config.transportAnswer` (`20_memory.md` R29).
  The model's own field. DESIGN CHOICE (log 5), safe. -/
  draws     : Nat
  deriving DecidableEq, Repr

/-- Why the machine stops with a fault: never. Both failures of the block are answers to the host after which it is in a next
state (`60_exceptions.md` R88, R90, `40_pinmap_decoder.md` R66), and it has no halt (`70_reset_and_hazards.md` R113). -/
inductive Fault where
  deriving DecidableEq, Repr

/-- Why an operation has no meaning. -/
inductive Refusal where
  /-- Raised by an arm of `exec` that has no meaning yet; no arm does. Safe. -/
  | notModelled (mnemonic : String)
  /-- Raised by `CONFIGURE` while an operation is in flight: "this spec does not define it and a model refuses it"
  (`70_reset_and_hazards.md` R104, U6; log 12). Safe. -/
  | resetInFlight
  /-- Raised by an abstract call whose number lies outside its operand type: "must refuse it rather than truncate it"
  (`30_encoding.md` R49, D2; log 24). Safe. -/
  | operandOutOfType
  deriving DecidableEq, Repr

/-- The latch after construction (`10_state.md` R23): the backlight on, the other fields at the parameters of `Config`. -/
def Latch.reset : Latch where
  rs  := Config.resetRs
  rw  := Config.resetRw
  nib := Config.resetNib
  bl  := Config.resetBl

/-- The machine right after its reset, which is its construction (`70_reset_and_hazards.md` R102): the table of `10_state.md` R23,
for the address `Config.addr` and the default PinMap.
DESIGN CHOICE (log 1), unsafe: the spec also describes the time before construction, `State.powerOn`. -/
def State.reset : State where
  addr      := Config.addr
  pm        := Config.defaultPinMap
  st        := .ready
  latch     := Latch.reset
  ph        := .idle
  trace     := []
  mem       := []
  responses := [.ok]
  requests  := []
  answers   := []
  draws     := 0

/-- The machine before construction (`10_state.md` R24, `70_reset_and_hazards.md` R102): nothing is configured, nothing was
answered; the address, the PinMap and the latch are not meaningful and hold what reset will give them.
DESIGN CHOICE (log 28), unsafe. -/
def State.powerOn : State where
  addr      := Config.addr
  pm        := Config.defaultPinMap
  st        := .unconfigured
  latch     := Latch.reset
  ph        := .idle
  trace     := []
  mem       := []
  responses := []
  requests  := []
  answers   := []
  draws     := 0

end Sys2Proof.Machine
end

