-- ==== Sys2Proof/Machine/Flags.lean ====
section
/-! DEFINITION. The block has no flags, condition codes or status register (`10_state.md` R22). What an operation has instead is its
outcome: this file computes it from the transport's answers, with its code in format `STS`. -/

namespace Sys2Proof.Machine

/-- The result of a bus write, `ok` or `err(x)`; none while the transport is silent (`20_memory.md` R27, R39). -/
def verdictOf : Answer → Option Verdict
  | .ok => some .ok
  | .err x _ => some (.err x)
  | .silent => none

/-- Whether the byte reaches the pins: always when the write succeeded, by the environment's draw when it failed
(`20_memory.md` R32), never while it is unanswered. -/
def landsOf : Answer → Bool
  | .ok => true
  | .err _ landed => landed
  | .silent => false

/-- The status an operation ends with when the given verdict ends it: `x` is passed through unchanged (`30_encoding.md` R51,
`60_exceptions.md` R88). -/
def statusOf : Verdict → Status
  | .ok => .ok
  | .err x => .busError x

/-- The code of a status in format `STS` (`30_encoding.md` R51); code 3 is never produced. -/
def statusCode : Status → BitVec 2
  | .ok => 0
  | .busError _ => 1
  | .configError => 2

/-- The payload of a status: the transport's error value for a bus error, nothing otherwise (`60_exceptions.md` R88). -/
def statusPayload : Status → Option TransportError
  | .ok => none
  | .busError x => some x
  | .configError => none

end Sys2Proof.Machine
end

