-- ==== Sys2Proof/Decode.lean ====
section
/-! DEFINITION. The binary forms: decoding a command word and a configuration word, the encoder, and the rows of the opcode table.
Every command word and every configuration word spells an operation (`30_encoding.md` R50, R52); a number that is no word of
either format is rejected by name. -/

namespace Sys2Proof

/-- One bit as a 1-bit word, 1 for true (`30_encoding.md` R44). -/
def bit1 (b : Bool) : BitVec 1 := BitVec.ofBool b

/-- The opcode field `cmd[5:4]` (`30_encoding.md` R48). -/
def cmdOpcode (w : CmdWord) : BitVec 2 := w.extractLsb' 4 2

/-- The argument field `cmd[3:0]` (`30_encoding.md` R48). -/
def cmdArg (w : CmdWord) : Nibble := w.extractLsb' 0 4

/-- Decoding format `CMD` (`30_encoding.md` R48, R49, R50): four opcodes, all taken; the argument bits an operation does not use
are ignored. -/
def decodeCommand (w : CmdWord) : Instr :=
  if cmdOpcode w = 0b00#2 then .setControl ((cmdArg w).getLsbD 0) ((cmdArg w).getLsbD 1)
  else if cmdOpcode w = 0b01#2 then .setDataNibble (cmdArg w)
  else if cmdOpcode w = 0b10#2 then .pulseEnable
  else .setBacklight ((cmdArg w).getLsbD 0)

/-- The eight override positions `cfg[23:0]` (`30_encoding.md` R47). -/
def cfgPinMap (w : CfgWord) : PinMap where
  rs := w.extractLsb' 0 3
  rw := w.extractLsb' 3 3
  e  := w.extractLsb' 6 3
  d4 := w.extractLsb' 9 3
  d5 := w.extractLsb' 12 3
  d6 := w.extractLsb' 15 3
  d7 := w.extractLsb' 18 3
  bl := w.extractLsb' 21 3

/-- The address field `cfg[30:24]` (`30_encoding.md` R47). -/
def cfgAddr (w : CfgWord) : BusAddr := w.extractLsb' 24 7

/-- The selector `cfg[31]`, `use_default` (`30_encoding.md` R47). -/
def cfgUseDefault (w : CfgWord) : Bool := w.getLsbD 31

/-- Decoding format `CFG` (`30_encoding.md` R47, `40_pinmap_decoder.md` R59): bit 31 selects the form; with the default the low 24
bits are ignored. -/
def decodeConfig (w : CfgWord) : Instr :=
  if cfgUseDefault w then .configureDefault (cfgAddr w) else .configureOverride (cfgAddr w) (cfgPinMap w)

/-- The operation a presented word spells. -/
def decode : Request → Instr
  | .command w => decodeCommand w
  | .configure w => decodeConfig w

/-- The low 24 bits of a configuration word: the eight positions, that of RS lowest (`30_encoding.md` R47). -/
def packPositions (pm : PinMap) : BitVec 24 :=
  pm.bl ++ pm.d7 ++ pm.d6 ++ pm.d5 ++ pm.d4 ++ pm.e ++ pm.rw ++ pm.rs

/-- The word of an operation, from the same tables of the spec (`30_encoding.md` R47, R48); ignored bits are written 0. -/
def encode : Instr → Request
  | .setControl rs rw => .command (0b00#2 ++ 0b00#2 ++ bit1 rw ++ bit1 rs)
  | .setDataNibble n => .command (0b01#2 ++ n)
  | .pulseEnable => .command (0b10#2 ++ 0b0000#4)
  | .setBacklight on => .command (0b11#2 ++ 0b000#3 ++ bit1 on)
  | .configureDefault addr => .configure (0b1#1 ++ addr ++ 0#24)
  | .configureOverride addr pm => .configure (0b0#1 ++ addr ++ packPositions pm)

/-- Why a number is no word of the block. -/
inductive Reject where
  /-- A command that does not fit in 6 bits (`30_encoding.md` R49: refused, never truncated). -/
  | commandTooWide
  /-- A configuration that does not fit in 32 bits. -/
  | configTooWide
  /-- A length that is the length of neither format (`30_encoding.md` R41). -/
  | noSuchFormat
  deriving DecidableEq, Repr

/-- The word that a number of `nbits` bits is, numbered as the opcode table numbers bits: 6 bits, or the one byte that holds
them, for `CMD`; 32 bits for `CFG`.
DESIGN CHOICE (log 17): the block has no stored program, so there are no bytes to lay out; the two formats are told apart by
their length; safe. -/
def requestOfTableWord (nbits w : Nat) : Except Reject Request :=
  if nbits = 6 ∨ nbits = 8 then
    if w < 64 then .ok (.command (BitVec.ofNat 6 w)) else .error .commandTooWide
  else if nbits = 32 then
    if w < 4294967296 then .ok (.configure (BitVec.ofNat 32 w)) else .error .configTooWide
  else .error .noSuchFormat

/-- The instruction read from a number of `nbits` bits; `none` where the decoder rejects it. -/
def decodeTableWord (nbits w : Nat) : Option Instr :=
  match requestOfTableWord nbits w with
  | .ok r => some (decode r)
  | .error _ => none

/-- The `match` and `mask` of an operation's row in the opcode table, zero-extended to 32 bits. -/
def tableRow : Instr → BitVec 32 × BitVec 32
  | .setControl _ _ => (0x00#32, 0x30#32)
  | .setDataNibble _ => (0x10#32, 0x30#32)
  | .pulseEnable => (0x20#32, 0x30#32)
  | .setBacklight _ => (0x30#32, 0x30#32)
  | .configureDefault _ => (0x80000000#32, 0x80000000#32)
  | .configureOverride _ _ => (0x00000000#32, 0x80000000#32)

/-- A presented word zero-extended to 32 bits. -/
def Request.bits : Request → BitVec 32
  | .command w => w.setWidth 32
  | .configure w => w

/-- The names under which the source's sections call the run-time operations (`30_encoding.md` R55, conflict C1): the defining
name first, then the overview's alias. -/
def sourceNames : Instr → List String
  | .setControl _ _ => ["set_control", "apply_control_lines"]
  | .setDataNibble _ => ["set_data_nibble", "apply_data_nibble"]
  | .pulseEnable => ["pulse_enable"]
  | .setBacklight _ => ["set_backlight"]
  | .configureDefault _ => ["configure"]
  | .configureOverride _ _ => ["configure"]

end Sys2Proof
end

