-- ==== Sys2Proof/Machine/Operands.lean ====
section
/-! DEFINITION. The operand forms and the one format the source itself defines: signals, their positions and masks, the composition
of the output byte from the whole latch, and its inverse. -/

namespace Sys2Proof.Machine

/-- The position a PinMap gives a signal, `PM.s` (`10_state.md` R12). -/
def pos (pm : PinMap) : Signal → Position
  | .rs => pm.rs
  | .rw => pm.rw
  | .e => pm.e
  | .d4 => pm.d4
  | .d5 => pm.d5
  | .d6 => pm.d6
  | .d7 => pm.d7
  | .bl => pm.bl

/-- A one-bit value at its position in an otherwise zero byte: `zext_8(v) << p` (`30_encoding.md` R42, R44: true is 1). -/
def place (v : Bool) (p : Position) : Byte := (bit1 v).setWidth 8 <<< p.toNat

/-- The bit of a byte at a position; bit 0 is the least significant (`20_memory.md` R30). -/
def bitAt (b : Byte) (p : Position) : Bool := b.getLsbD p.toNat

/-- The level of data line D(4+i), bit `i` of the nibble (`30_encoding.md` R43). DESIGN CHOICE (log 14), unsafe: the spec's own
reading of which bit goes to which line. -/
def nibBit (n : Nibble) (i : Nat) : Bool := n.getLsbD i

/-- The tuple of levels that makes an output byte: the latch and the enable level (`30_encoding.md` R42, R45). -/
structure Levels where
  rs  : Bool
  rw  : Bool
  nib : Nibble
  bl  : Bool
  e   : Bool
  deriving DecidableEq, Repr

/-- The level of one signal in a tuple. -/
def level (v : Levels) : Signal → Bool
  | .rs => v.rs
  | .rw => v.rw
  | .e => v.e
  | .d4 => nibBit v.nib 0
  | .d5 => nibBit v.nib 1
  | .d6 => nibBit v.nib 2
  | .d7 => nibBit v.nib 3
  | .bl => v.bl

/-- `compose(PM, rs, rw, nib, bl, e)` (`30_encoding.md` R42), term by term. -/
def compose (pm : PinMap) (v : Levels) : Byte :=
  place v.rs pm.rs
    ||| place v.rw pm.rw
    ||| place v.e pm.e
    ||| place (nibBit v.nib 0) pm.d4
    ||| place (nibBit v.nib 1) pm.d5
    ||| place (nibBit v.nib 2) pm.d6
    ||| place (nibBit v.nib 3) pm.d7
    ||| place v.bl pm.bl

/-- `decompose(PM, b)` (`30_encoding.md` R45); the block never computes it. -/
def decompose (pm : PinMap) (b : Byte) : Levels where
  rs  := bitAt b pm.rs
  rw  := bitAt b pm.rw
  nib := bit1 (bitAt b pm.d7) ++ bit1 (bitAt b pm.d6) ++ bit1 (bitAt b pm.d5) ++ bit1 (bitAt b pm.d4)
  bl  := bitAt b pm.bl
  e   := bitAt b pm.e

/-- The one-hot mask of a signal, `m_s = 1 << PM.s` (`30_encoding.md` R46): what the pin-configuration decoder yields
(`40_pinmap_decoder.md` R63). -/
def mask (pm : PinMap) (s : Signal) : Byte := 1#8 <<< (pos pm s).toNat

/-- The OR of the masks of a set of signals, `m_K` (`41_latch_write_ops.md` R77). -/
def maskOf (pm : PinMap) (k : List Signal) : Byte := k.foldr (fun s b => mask pm s ||| b) 0#8

/-- The levels a latch gives, with an enable level (`10_state.md` R16). -/
def Latch.levels (l : Latch) (e : Bool) : Levels where
  rs  := l.rs
  rw  := l.rw
  nib := l.nib
  bl  := l.bl
  e   := e

/-- `compose(PM, S, e)`, from the whole latch of a state as it stands (`42_pulse_enable.md` R82, `10_state.md` R18). -/
def outByte (s : State) (e : Bool) : Byte := compose s.pm (s.latch.levels e)

/-- `arg` of `SET_CONTROL` put into the latch: RS and RW, both (`41_latch_write_ops.md` R69). -/
def Latch.setControl (l : Latch) (rs rw : Bool) : Latch := { l with rs := rs, rw := rw }

/-- `arg` of `SET_DATA_NIBBLE` put into the latch: all four bits (`41_latch_write_ops.md` R70). -/
def Latch.setNibble (l : Latch) (n : Nibble) : Latch := { l with nib := n }

/-- `arg` of `SET_BACKLIGHT` put into the latch (`41_latch_write_ops.md` R71). -/
def Latch.setBacklight (l : Latch) (on : Bool) : Latch := { l with bl := on }

end Sys2Proof.Machine
end

