-- ==== Sys2Proof/Machine/Ops.lean ====
section
/-! DEFINITION. The named operations over the state: the pins, the bus write, the two ways an operation ends, the sequencer's two
kinds of step, and the conditions under which the block takes a request. -/

namespace Sys2Proof.Machine

/-- What the machine's instructions answer. -/
abbrev Result := Host.Outcome State Fault Refusal

/-- What an address reads as that no entry lists: the free value, since the pins hold an unknown byte until one of the block lands
there (`10_state.md` R23, `20_memory.md` R32, D17). DESIGN CHOICE (log 8), safe. -/
def Memory.unlisted (a : Nat) : Byte := Config.initialPins a

/-- The byte on the pins of the device at an address. The block itself never reads (`20_memory.md` R28). -/
def Memory.read : Memory → Nat → Byte
  | [], a => Memory.unlisted a
  | c :: m, a => if c.1 = a then c.2 else Memory.read m a

/-- A list with every entry of an address taken out. -/
def Memory.erase (m : Memory) (a : Nat) : Memory := m.filter fun c => c.1 ≠ a

/-- A list with an entry put in before the first higher address. -/
def Memory.insert : Memory → Nat → Byte → Memory
  | [], a, b => [(a, b)]
  | c :: m, a, b => if a < c.1 then (a, b) :: c :: m else c :: Memory.insert m a b

/-- The pins of the device at an address after a byte has reached them; all eight at once (`20_memory.md` R33, R34). The byte is
listed unless the address reads as it without an entry. -/
def Memory.write (m : Memory) (a : Nat) (b : Byte) : Memory :=
  if b = Memory.unlisted a then m.erase a else (m.erase a).insert a b

/-- The canonical form: addresses rise strictly and lie in the 7-bit address space (`20_memory.md` R25), and no entry equals what its
address reads as without one. -/
abbrev Memory.wf (m : Memory) : Prop :=
  m.Pairwise (fun c d => c.1 < d.1) ∧ ∀ c ∈ m, c.1 < 128 ∧ c.2 ≠ Memory.unlisted c.1

/-- `P`: the pins of the expander the block is configured for (`10_state.md` R21). -/
def State.pins (s : State) : Byte := Memory.read s.mem s.addr.toNat

/-- The transport's answer to the next question: the next fixed one, else the free value (`20_memory.md` R29; log 5). -/
def nextAnswer (s : State) : Answer := s.answers.headD (Config.transportAnswer s.draws)

/-- The state once that answer has been taken. -/
def takeAnswer (s : State) : State := { s with answers := s.answers.tail, draws := s.draws + 1 }

/-- The trace once a write of `b` has been answered: one event, whether it succeeded or failed (`10_state.md` R20); none while
it is unanswered (log 26). -/
def traceAfter (s : State) (b : Byte) : Option Verdict → List BusEvent
  | some v => s.trace ++ [⟨s.addr, b, v⟩]
  | none => s.trace

/-- The pins once the transport has answered a write of `b` (`20_memory.md` R32; log 7). -/
def memAfter (s : State) (b : Byte) (landed : Bool) : Memory :=
  if landed then Memory.write s.mem s.addr.toNat b else s.mem

/-- `BusWrite(ADDR, b)` (`20_memory.md` R27): one single-byte write to the configured address; its event and its effect on the
pins; no state of the block changes. Its result is `verdictOf (nextAnswer s)`. -/
def busWrite (b : Byte) (s : State) : State :=
  { takeAnswer s with
    trace := traceAfter s b (verdictOf (nextAnswer s))
    mem := memAfter s b (landsOf (nextAnswer s)) }

/-- An operation ends and the host has its answer (`30_encoding.md` R51): the block accepts again, `ph <- IDLE`. -/
def respond (r : Status) (s : State) : State := { s with ph := .idle, responses := s.responses ++ [r] }

/-- `return OK`. -/
def returnOk (s : State) : State := respond .ok s

/-- `raise BusError(x)` (`60_exceptions.md` R90): the operation ends at that point; nothing is saved, nothing undone, no handler
entered; `ph <- IDLE`, and the host has the transport's own value. There is no return from it (`60_exceptions.md` R97). -/
def raiseBusError (x : TransportError) (s : State) : State := respond (.busError x) s

/-- `raise ConfigError` (`40_pinmap_decoder.md` R61, R66, `60_exceptions.md` R96): `st <- CONFIG_ERROR`, no bus write, and nothing
else of the reset sequence happens (`70_reset_and_hazards.md` R103; log 18). -/
def raiseConfigError (s : State) : State := { respond .configError s with st := .configError }

/-- An operation stays in a phase because the transport has not answered (`20_memory.md` R39, U10; log 6). -/
def waitIn (p : Phase) (s : State) : State := { s with ph := p }

/-- The enable level of the byte written in a phase: 1 exactly in `PULSE_HI` (`42_pulse_enable.md` R85). -/
def enableOf : Phase → Bool
  | .idle => false
  | .write => false
  | .pulseHi => true
  | .pulseLo => false

/-- What an answered write does to the operation in flight in a phase (`42_pulse_enable.md` R82): the successful enable-high write
leads to the enable-low write, every other answered write ends the operation. -/
def afterWrite : Phase → Verdict → State → State
  | .pulseHi, .ok, s => waitIn .pulseLo s
  | _, .ok, s => returnOk s
  | _, .err x, s => raiseBusError x s

/-- An issue step of the sequencer (`42_pulse_enable.md` R82): in a busy phase, one bus write of the byte composed from the whole
latch, and the transition its answer gives; unanswered, the block stays where it is. In `IDLE` there is none. -/
def issue (s : State) : State :=
  if s.ph = .idle then s
  else
    match verdictOf (nextAnswer s) with
    | some v => afterWrite s.ph v (busWrite (outByte s (enableOf s.ph)) s)
    | none => busWrite (outByte s (enableOf s.ph)) s

/-- An accept step of the sequencer (`42_pulse_enable.md` R82): the latch takes the command's operand, and the phase says which
write is pending. `CONFIGURE` is no command and moves nothing here. -/
def accept : Instr → State → State
  | .setControl rs rw, s => { s with latch := s.latch.setControl rs rw, ph := .write }
  | .setDataNibble n, s => { s with latch := s.latch.setNibble n, ph := .write }
  | .setBacklight on, s => { s with latch := s.latch.setBacklight on, ph := .write }
  | .pulseEnable, s => { s with ph := .pulseHi }
  | .configureDefault _, s => s
  | .configureOverride _ _, s => s

/-- At most `n` issue steps, stopping in `IDLE`: the small-step machine run on the command it has accepted
(`42_pulse_enable.md` R83). -/
def issueRun : Nat → State → State
  | 0, s => s
  | n + 1, s => if s.ph = .idle then s else issueRun n (issue s)

/-- A command presented while the block is busy is held (`42_pulse_enable.md` R84, D13; log 11): the block goes on with the
operation in flight, and the command is still presented. -/
def hold (r : Request) (s : State) : State :=
  { issue s with requests := r :: s.requests }

/-- The conditions under which a command is executed (`10_state.md` R24, `42_pulse_enable.md` R84): in `IDLE` and `READY` it runs;
in `IDLE` otherwise it is not accepted, so that there is no write, no response and no change (log 10); busy, it is held. -/
def command (i : Instr) (run : State → State) (s : State) : Result :=
  if s.ph = .idle then .next (if s.st = .ready then run s else s) else .next (hold (encode i) s)

/-- The condition under which construction runs: a model admits it only in `IDLE` (`70_reset_and_hazards.md` R104, U6; log 12). -/
def configure (run : State → State) (s : State) : Result :=
  if s.ph = .idle then .next (run s) else .refused .resetInFlight

end Sys2Proof.Machine
end

