-- ==== Sys2Proof/Machine/Configure.lean ====
section
/-! DEFINITION. Construction and the pin-configuration decoder: the two forms of `CONFIGURE`, which is the block's reset. -/

namespace Sys2Proof.Machine

/-- The state after a successful construction (`70_reset_and_hazards.md` R103 steps 4 to 7, `10_state.md` R23): no bus write, the
pins as they were (`40_pinmap_decoder.md` R65; log 13), the trace of the new adapter empty (R104). -/
def constructed (addr : BusAddr) (pm : PinMap) (s : State) : State :=
  { respond .ok s with addr := addr, pm := pm, st := .ready, latch := Latch.reset, trace := [] }

/-- The reset sequence (`70_reset_and_hazards.md` R103): the PinMap is validated before anything else happens
(`40_pinmap_decoder.md` R62, `60_exceptions.md` R96). -/
def construct (addr : BusAddr) (pm : PinMap) (s : State) : State :=
  if pm.Valid then constructed addr pm s else raiseConfigError s

/-- `CONFIGURE_DEFAULT` (`40_pinmap_decoder.md` R60); the validation is applied to the default too. -/
def execConfigureDefault (addr : BusAddr) (s : State) : Result :=
  configure (construct addr Config.defaultPinMap) s

/-- `CONFIGURE_OVERRIDE` (`40_pinmap_decoder.md` R61). -/
def execConfigureOverride (addr : BusAddr) (pm : PinMap) (s : State) : Result :=
  configure (construct addr pm) s

end Sys2Proof.Machine
end

