-- ==== Sys2Proof/Machine/LatchWrite.lean ====
section
/-! DEFINITION. The bit-packing engine: the three operations that update one part of the latch and issue one bus write. -/

namespace Sys2Proof.Machine

/-- The common shape of the family (`41_latch_write_ops.md` R68, R76): update the latch, compose the byte from the whole latch with
enable 0, write it once, answer; the update is never undone.
DESIGN CHOICE (log 15), unsafe: enable 0 is the spec's own for `SET_DATA_NIBBLE` and `SET_BACKLIGHT`. -/
def latchAndWrite (l : Latch) (s : State) : State :=
  let s1 := { s with latch := l }
  let b := outByte s1 false
  match verdictOf (nextAnswer s1) with
  | some .ok => returnOk (busWrite b s1)
  | some (.err x) => raiseBusError x (busWrite b s1)
  | none => waitIn .write (busWrite b s1)

/-- `SET_CONTROL(rs, rw)` (`41_latch_write_ops.md` R69). -/
def execSetControl (rs rw : Bool) (s : State) : Result :=
  command (.setControl rs rw) (fun s => latchAndWrite (s.latch.setControl rs rw) s) s

/-- `SET_DATA_NIBBLE(n)` (`41_latch_write_ops.md` R70). -/
def execSetDataNibble (n : Nibble) (s : State) : Result :=
  command (.setDataNibble n) (fun s => latchAndWrite (s.latch.setNibble n) s) s

/-- `SET_BACKLIGHT(on)` (`41_latch_write_ops.md` R71). -/
def execSetBacklight (on : Bool) (s : State) : Result :=
  command (.setBacklight on) (fun s => latchAndWrite (s.latch.setBacklight on) s) s

end Sys2Proof.Machine
end

