-- ==== Sys2Proof/Machine/Pulse.lean ====
section
/-! DEFINITION. `PULSE_ENABLE`: two bus writes, enable high then enable low, the second only if the first succeeded. -/

namespace Sys2Proof.Machine

/-- The second half of the pulse (`42_pulse_enable.md` R78, R81): the enable-low byte of the same latch. -/
def pulseLow (s : State) : State :=
  let b0 := outByte s false
  match verdictOf (nextAnswer s) with
  | some .ok => returnOk (busWrite b0 s)
  | some (.err y) => raiseBusError y (busWrite b0 s)
  | none => waitIn .pulseLo (busWrite b0 s)

/-- The whole pulse (`42_pulse_enable.md` R78, R80): the enable-high byte; after a failure no second write. -/
def pulse (s : State) : State :=
  let b1 := outByte s true
  match verdictOf (nextAnswer s) with
  | some .ok => pulseLow (busWrite b1 s)
  | some (.err x) => raiseBusError x (busWrite b1 s)
  | none => waitIn .pulseHi (busWrite b1 s)

/-- `PULSE_ENABLE` (`42_pulse_enable.md` R78). -/
def execPulseEnable (s : State) : Result := command .pulseEnable pulse s

end Sys2Proof.Machine
end

