-- ==== Sys2Proof/Machine/Dispatch.lean ====
section
/-! DEFINITION. The dispatch: one arm per operation, each a direct call of its meaning. -/

namespace Sys2Proof.Machine

def exec (i : Instr) (s : State) : Host.Outcome State Fault Refusal :=
  match i with
  | .setControl rs rw => Sys2Proof.Machine.execSetControl rs rw s
  | .setDataNibble n => Sys2Proof.Machine.execSetDataNibble n s
  | .pulseEnable => Sys2Proof.Machine.execPulseEnable s
  | .setBacklight on => Sys2Proof.Machine.execSetBacklight on s
  | .configureDefault addr => Sys2Proof.Machine.execConfigureDefault addr s
  | .configureOverride addr pm => Sys2Proof.Machine.execConfigureOverride addr pm s

end Sys2Proof.Machine
end

