-- ==== Sys2Proof/Machine/Fetch.lean ====
section
/-! DEFINITION. How the next operation reaches the block: it fetches nothing, its operations are presented by the host one at a
time. -/

namespace Sys2Proof.Machine

/-- The block in `IDLE` takes the next request and executes it (`20_memory.md` R37, `30_encoding.md` R48); with nothing presented
it stays as it is (`70_reset_and_hazards.md` R113; log 9). -/
def takeRequest (s : State) : Result :=
  match s.requests with
  | [] => .next s
  | r :: rest => exec (decode r) { s with requests := rest }

/-- One step: in `IDLE` the next request, otherwise the issue step of the operation in flight (`42_pulse_enable.md` R82, R84). -/
def stepOnce (s : State) : Result :=
  if s.ph = .idle then takeRequest s else .next (issue s)

/-- A word presented to the block as the next request, where the block takes one: in `IDLE`. -/
def present (r : Request) (s : State) : State := { s with ph := .idle, requests := r :: s.requests }

/-- The next request given as a number of `nbits` bits; a number that is no word of the block is not presented. -/
def fetchWord (s : State) (nbits w : Nat) : State :=
  match requestOfTableWord nbits w with
  | .ok r => present r s
  | .error _ => s

end Sys2Proof.Machine
end

