-- ==== Sys2Proof/Machine/Calls.lean ====
section
/-! DEFINITION. The textual form of a program: calls with plain numbers, the two pseudo-operations, and running operations one after
the other. Nothing of it is an operation of the block. -/

namespace Sys2Proof.Machine

/-- A call of the textual form (`30_encoding.md` R54) as the operation it names. An operand outside its type is refused, never
truncated (`30_encoding.md` R49, D2); a position above 7 is an invalid PinMap, so construction raises `ConfigError`
(`40_pinmap_decoder.md` R64, D18). DESIGN CHOICE (log 24), safe: the address is looked at before the positions. -/
def execCall (c : Call) (s : State) : Result :=
  match c with
  | .setControl rs rw => exec (.setControl rs rw) s
  | .setDataNibble n =>
    if n < 16 then exec (.setDataNibble (BitVec.ofNat 4 n)) s else .refused .operandOutOfType
  | .pulseEnable => exec .pulseEnable s
  | .setBacklight on => exec (.setBacklight on) s
  | .configure addr .default =>
    if addr < 128 then exec (.configureDefault (BitVec.ofNat 7 addr)) s else .refused .operandOutOfType
  | .configure addr (.override rs rw e d4 d5 d6 d7 bl) =>
    if addr < 128 then
      if (PinChoice.override rs rw e d4 d5 d6 d7 bl).inRange then
        exec (.configureOverride (BitVec.ofNat 7 addr)
          { rs := BitVec.ofNat 3 rs, rw := BitVec.ofNat 3 rw, e := BitVec.ofNat 3 e, d4 := BitVec.ofNat 3 d4,
            d5 := BitVec.ofNat 3 d5, d6 := BitVec.ofNat 3 d6, d7 := BitVec.ofNat 3 d7, bl := BitVec.ofNat 3 bl }) s
      else configure raiseConfigError s
    else .refused .operandOutOfType

/-- `send_nibble(rs, rw, n)` (`30_encoding.md` R56): a macro of three operations; the block does not know of it. -/
def sendNibble (rs rw : Bool) (n : Nibble) : List Instr := [.setControl rs rw, .setDataNibble n, .pulseEnable]

/-- `send_byte(rs, v)` (`30_encoding.md` R57), informative.
PRESUMED (log 25), safe: that the high nibble goes first is the HD44780 convention, no rule of the block. -/
def sendByte (rs : Bool) (v : Byte) : List Instr :=
  sendNibble rs false (v.extractLsb' 4 4) ++ sendNibble rs false (v.extractLsb' 0 4)

/-- Operations executed in the order in which the host presents them (`20_memory.md` R35, R37), as far as each gives a next
state. -/
def execAll : List Instr → State → Result
  | [], s => .next s
  | i :: is, s =>
    match exec i s with
    | .next t => execAll is t
    | .fault r => .fault r
    | .refused r => .refused r

end Sys2Proof.Machine
end

