-- ==== Sys2Proof/Safety.lean ====
section
/-! DEFINITION. The terms in which claims about runs are stated: when the block takes a command, when the transport answers, the
invariants of the machine, and what the spec calls a clean session and agreement of latch and pins. -/

namespace Sys2Proof.Machine

/-- The block accepts a run-time command (`41_latch_write_ops.md` R68). -/
abbrev Accepts (s : State) : Prop := s.st = .ready ∧ s.ph = .idle

/-- The next `n` answers of the transport are fixed, and none of them is silence: the premise "every write is eventually answered"
of `20_memory.md` R39 for the next `n` writes. -/
abbrev Answering (n : Nat) (s : State) : Prop := n ≤ s.answers.length ∧ Answer.silent ∉ s.answers.take n

/-- The next `n` writes all succeed: the premise "every bus write returns `ok`" of `20_memory.md` R29. -/
abbrev AllOk (n : Nat) (s : State) : Prop := s.answers.take n = List.replicate n .ok

/-- The configuration the block works with is legal (`10_state.md` R12), and only a constructed block is ever busy
(`10_state.md` R24). -/
abbrev ConfigLegal (s : State) : Prop := s.pm.Valid ∧ (s.ph ≠ .idle → s.st = .ready)

/-- Every event of the trace went to the one configured address (`20_memory.md` R26). -/
abbrev TraceAddressed (s : State) : Prop := ∀ e ∈ s.trace, e.addr = s.addr

/-- The pins hold the byte of the last event, if that write succeeded (`10_state.md` R21, `20_memory.md` R32). -/
abbrev PinsHoldLast (s : State) : Prop :=
  ∀ e, s.trace.getLast? = some e → e.result = .ok → s.pins = e.byte

/-- An event that raised the enable line: it succeeded and its enable bit is 1. -/
abbrev BusEvent.strobes (pm : PinMap) (e : BusEvent) : Prop := e.result = .ok ∧ bitAt e.byte pm.e = true

/-- What `42_pulse_enable.md` R85 asks of two successive events: after a successful enable-high byte comes a byte with enable 0
that is otherwise identical. -/
abbrev StrobeThen (pm : PinMap) (a b : BusEvent) : Prop := a.strobes pm → b.byte = a.byte &&& ~~~(mask pm .e)

/-- The shape of the whole trace (`42_pulse_enable.md` R85): every successful enable-high byte is followed by its enable-low byte,
but for one that ends the trace while the second write of its pulse is pending, composed from the latch as it stands. -/
abbrev StrobeShape (s : State) : Prop :=
  s.trace.IsChain (StrobeThen s.pm) ∧
  ∀ e, s.trace.getLast? = some e → e.strobes s.pm → s.ph = .pulseLo ∧ e.byte = outByte s true

/-- The pins agree with the latch: they show what it intends, enable low (`10_state.md` R21, `42_pulse_enable.md` R79). -/
abbrev InSync (s : State) : Prop := s.pins = outByte s false

/-- The session is clean: no bus error has been answered (`60_exceptions.md` R97: the ghost flag a model may keep). -/
def sessionClean (s : State) : Bool := s.responses.all (fun r => (statusPayload r).isNone)

/-- The suggested layout of `10_state.md` R13, used by the spec's vectors. It is a value to instantiate premises with, never the
default PinMap itself (GK1 in `93_implementation_defined.md`). -/
def suggestedPinMap : PinMap where
  rs := 0
  rw := 1
  e  := 2
  d4 := 4
  d5 := 5
  d6 := 6
  d7 := 7
  bl := 3

/-- The operations that update the latch and write once (`41_latch_write_ops.md` R68). -/
abbrev IsLatchWrite : Instr → Prop
  | .setControl _ _ => True
  | .setDataNibble _ => True
  | .pulseEnable => False
  | .setBacklight _ => True
  | .configureDefault _ => False
  | .configureOverride _ _ => False

/-- The latch with a command's operand in it, the other fields as they were (`10_state.md` R15). -/
def applyOperand : Instr → Latch → Latch
  | .setControl rs rw, l => { rs := rs, rw := rw, nib := l.nib, bl := l.bl }
  | .setDataNibble n, l => { rs := l.rs, rw := l.rw, nib := n, bl := l.bl }
  | .pulseEnable, l => l
  | .setBacklight on, l => { rs := l.rs, rw := l.rw, nib := l.nib, bl := on }
  | .configureDefault _, l => l
  | .configureOverride _ _, l => l

/-- The signals an operation sets, `K` of `41_latch_write_ops.md` R77. -/
def signalsOf : Instr → List Signal
  | .setControl _ _ => [.rs, .rw]
  | .setDataNibble _ => [.d4, .d5, .d6, .d7]
  | .pulseEnable => []
  | .setBacklight _ => [.bl]
  | .configureDefault _ => []
  | .configureOverride _ _ => []

/-- The events a trace gained over an earlier one (`10_state.md` R20). -/
def newEvents (s t : State) : List BusEvent := t.trace.drop s.trace.length

/-- The state with every transport error value replaced, in the trace, in the responses and in the answers to come. -/
def renameErrors (f : TransportError → TransportError) (s : State) : State :=
  { s with
    trace := s.trace.map fun e => { e with result := match e.result with | .ok => .ok | .err x => .err (f x) }
    responses := s.responses.map fun r => match r with | .ok => .ok | .busError x => .busError (f x) | .configError => .configError
    answers := s.answers.map fun a => match a with | .ok => .ok | .err x l => .err (f x) l | .silent => .silent }

/-- The operand of the most recent `SET_CONTROL` of a list of operations (`41_latch_write_ops.md` R72). -/
def lastControl (is : List Instr) : Option (Bool × Bool) :=
  is.reverse.findSome? fun i => match i with | .setControl rs rw => some (rs, rw) | _ => none

/-- The operand of the most recent `SET_DATA_NIBBLE` of a list of operations (`41_latch_write_ops.md` R72). -/
def lastNibble (is : List Instr) : Option Nibble :=
  is.reverse.findSome? fun i => match i with | .setDataNibble n => some n | _ => none

/-- The operand of the most recent `SET_BACKLIGHT` of a list of operations (`41_latch_write_ops.md` R72). -/
def lastBacklight (is : List Instr) : Option Bool :=
  is.reverse.findSome? fun i => match i with | .setBacklight on => some on | _ => none

end Sys2Proof.Machine
end

