-- ==== Sys2Proof/Certificates/Slice0/Obligations.lean ====
section
/-! DEFINITION. The statements for the provers. -/

open Sys2Proof Sys2Proof.Machine

/-! ### Encodings -/

/-- Decoding the word an operation is encoded as gives that operation back, with every operand at every value
(`30_encoding.md` sections 3 and 4; the binary forms are the spec's own decisions D2 and D4, log 17). -/
def Obligations.DecodeEncodeRoundTrip : Prop := ∀ i : Instr, decode (encode i) = i

/-- Every override configuration word and every data-nibble command word is the encoding of the operation it spells: these two
forms have no ignored bits (`30_encoding.md` sections 3 and 4; decisions D2 and D4, log 17). -/
def Obligations.WordsWithoutIgnoredBits : Prop :=
  (∀ w : CfgWord, w.getLsbD 31 = false → encode (decodeConfig w) = .configure w) ∧
  (∀ w : CmdWord, w.extractLsb' 4 2 = 0b01#2 → encode (decodeCommand w) = .command w)

/-- Two command words denote one operation exactly when they differ in ignored argument bits only, and with the default selected
the low 24 bits of a configuration word are ignored (`30_encoding.md` section 4 and the table of section 3; decisions D2, D3 and
D4, log 17). -/
def Obligations.IgnoredBitsDenoteNothing : Prop :=
  (∀ w v : CmdWord, decodeCommand w = decodeCommand v ↔
    (cmdOpcode w = cmdOpcode v ∧
      (cmdOpcode w = 0b00#2 → w.getLsbD 0 = v.getLsbD 0 ∧ w.getLsbD 1 = v.getLsbD 1) ∧
      (cmdOpcode w = 0b01#2 → w.extractLsb' 0 4 = v.extractLsb' 0 4) ∧
      (cmdOpcode w = 0b11#2 → w.getLsbD 0 = v.getLsbD 0))) ∧
  (∀ w v : CfgWord, w.getLsbD 31 = true → v.getLsbD 31 = true →
    (decodeConfig w = decodeConfig v ↔ w.extractLsb' 24 7 = v.extractLsb' 24 7))

/-- Eight words written out from the spec's encodings decode to what they stand for (`95_test_vectors.md` B1 and B5; decisions D2, D3
and D4). That a command number of more than six bits is rejected is the model's choice, no table of the spec (log 17). -/
def Obligations.SampleWordsDecode : Prop :=
  decodeCommand 0b000001#6 = .setControl true false ∧
  decodeCommand 0b000010#6 = .setControl false true ∧
  decodeCommand 0b011010#6 = .setDataNibble 0b1010#4 ∧
  decodeCommand 0b101010#6 = .pulseEnable ∧
  decodeCommand 0b111110#6 = .setBacklight false ∧
  decodeCommand 0b110001#6 = .setBacklight true ∧
  decodeConfig 0xA7FFFFFF#32 = .configureDefault 0x27#7 ∧
  decodeConfig 0x3FED11AC#32 = .configureOverride 0x3F#7
    { rs := 4, rw := 5, e := 6, d4 := 0, d5 := 1, d6 := 2, d7 := 3, bl := 7 } ∧
  decodeTableWord 8 0x40 = none

/-! ### The output byte and the pin-configuration decoder -/

/-- Under a valid PinMap every bit of the output byte belongs to exactly one signal and holds that signal's level
(`30_encoding.md` R42); under the suggested layout the byte is the number the spec gives (`95_test_vectors.md` B2). Which nibble
bit is which data signal is the spec's decision D9, and that true is 1 its decision D11 (log 14, 16). -/
def Obligations.ComposeBitByBit : Prop :=
  (∀ (pm : PinMap), pm.Valid → ∀ (v : Levels) (q : Position),
    ∃ sig, pos pm sig = q ∧ (∀ sig', pos pm sig' = q → sig' = sig) ∧ bitAt (compose pm v) q = level v sig) ∧
  (∀ v : Levels, (compose suggestedPinMap v).toNat =
    v.nib.toNat * 16 + v.bl.toNat * 8 + v.e.toNat * 4 + v.rw.toNat * 2 + v.rs.toNat)

/-- `decompose` inverts `compose` both ways under a valid PinMap: the 256 tuples and the 256 bytes correspond one to one
(`30_encoding.md` R45). -/
def Obligations.ComposeDecomposeInverse : Prop :=
  ∀ pm : PinMap, pm.Valid →
    (∀ v : Levels, decompose pm (compose pm v) = v) ∧ (∀ b : Byte, compose pm (decompose pm b) = b)

/-- The eight masks are powers of two, pairwise disjoint and cover the byte, when the PinMap is valid (`30_encoding.md` R46); the
composed byte is the OR of the masks of the asserted signals under every PinMap (`40_pinmap_decoder.md` R63). -/
def Obligations.MasksPartitionTheByte : Prop :=
  (∀ pm : PinMap, pm.Valid →
    (∀ sig : Signal, (mask pm sig).toNat = 2 ^ (pos pm sig).toNat) ∧
    (∀ sig sig' : Signal, sig ≠ sig' → mask pm sig &&& mask pm sig' = 0#8) ∧ maskOf pm Signal.all = 0xFF#8) ∧
  (∀ (pm : PinMap) (v : Levels), compose pm v = maskOf pm (Signal.all.filter (level v)))

/-- The three tests of validity agree: pairwise distinct positions, masks whose OR is `0xFF`, and masks whose sum, taken without
wrapping, is 255 (`40_pinmap_decoder.md` R62). -/
def Obligations.ValidityTestsAgree : Prop :=
  ∀ pm : PinMap,
    ((∀ sig sig' : Signal, sig ≠ sig' → pos pm sig ≠ pos pm sig') ↔ pm.Valid) ∧
    (pm.Valid ↔ maskOf pm Signal.all = 0xFF#8) ∧
    (pm.Valid ↔ (Signal.all.map fun sig => (mask pm sig).toNat).sum = 255)

/-- Recomputing the whole byte equals clearing the bits of the changed signals in the previous byte and setting their new values
(`41_latch_write_ops.md` R77), for the three operations that change the latch. -/
def Obligations.IncrementalEqualsRecomputed : Prop :=
  ∀ (pm : PinMap) (i : Instr) (l : Latch), pm.Valid → IsLatchWrite i →
    compose pm ((applyOperand i l).levels false) =
      (compose pm (l.levels false) &&& ~~~(maskOf pm (signalsOf i)))
        ||| maskOf pm ((signalsOf i).filter (level ((applyOperand i l).levels false)))

/-! ### What the operations do -/

/-- `BusWrite(ADDR, b)`: it appends one event with its own verdict once the transport has answered, and changes no state of the
block; the error value is the transport's own (`20_memory.md` R27). That the transport may stay silent is the model's form of waiting
(log 6), and that the event enters the trace with the answer, so that a silent transport adds none, is its inference (log 26). -/
def Obligations.BusWriteAppendsOneEvent : Prop :=
  ∀ (b : Byte) (s : State),
    (∀ v, verdictOf (nextAnswer s) = some v →
      (busWrite b s).trace = s.trace ++ [{ addr := s.addr, byte := b, result := v }]) ∧
    (nextAnswer s = .silent → (busWrite b s).trace = s.trace) ∧
    (∀ x, verdictOf (nextAnswer s) = some (.err x) ↔ ∃ landed, nextAnswer s = .err x landed) ∧
    (busWrite b s).addr = s.addr ∧ (busWrite b s).pm = s.pm ∧ (busWrite b s).st = s.st ∧
    (busWrite b s).latch = s.latch ∧ (busWrite b s).ph = s.ph ∧ (busWrite b s).responses = s.responses

/-- `SET_CONTROL(rs, rw)` from an accepting block whose transport answers: RS and RW are latched, one byte with the held nibble
and backlight and enable 0 is written, and the host gets the write's outcome; all else is as it was
(`41_latch_write_ops.md` section 2). The encoding clause is the spec's decision D2 (log 17). -/
def Obligations.SetControlResult : Prop :=
  (∀ w : CmdWord, w.extractLsb' 4 2 = 0b00#2 → decodeCommand w = .setControl (w.getLsbD 0) (w.getLsbD 1)) ∧
  (∀ (rs rw : Bool) (s : State) (v : Verdict), Accepts s → verdictOf (nextAnswer s) = some v →
    exec (.setControl rs rw) s = .next
      { s with
        latch := { rs := rs, rw := rw, nib := s.latch.nib, bl := s.latch.bl }
        trace := s.trace ++
          [{ addr := s.addr
             byte := compose s.pm { rs := rs, rw := rw, nib := s.latch.nib, bl := s.latch.bl, e := false }
             result := v }]
        mem := memAfter s (compose s.pm { rs := rs, rw := rw, nib := s.latch.nib, bl := s.latch.bl, e := false })
          (landsOf (nextAnswer s))
        responses := s.responses ++ [statusOf v]
        answers := s.answers.tail
        draws := s.draws + 1 })

/-- `SET_DATA_NIBBLE(n)` from an accepting block whose transport answers: all four nibble bits are latched, one byte with the held
control lines and backlight and enable 0 is written, and the host gets the write's outcome (`41_latch_write_ops.md` section 2).
That the enable bit is 0 is the spec's decision D10 and the encoding clause its decision D2 (log 15, 17). -/
def Obligations.SetDataNibbleResult : Prop :=
  (∀ w : CmdWord, w.extractLsb' 4 2 = 0b01#2 → decodeCommand w = .setDataNibble (w.extractLsb' 0 4)) ∧
  (∀ (n : Nibble) (s : State) (v : Verdict), Accepts s → verdictOf (nextAnswer s) = some v →
    exec (.setDataNibble n) s = .next
      { s with
        latch := { rs := s.latch.rs, rw := s.latch.rw, nib := n, bl := s.latch.bl }
        trace := s.trace ++
          [{ addr := s.addr
             byte := compose s.pm { rs := s.latch.rs, rw := s.latch.rw, nib := n, bl := s.latch.bl, e := false }
             result := v }]
        mem := memAfter s (compose s.pm { rs := s.latch.rs, rw := s.latch.rw, nib := n, bl := s.latch.bl, e := false })
          (landsOf (nextAnswer s))
        responses := s.responses ++ [statusOf v]
        answers := s.answers.tail
        draws := s.draws + 1 })

/-- `SET_BACKLIGHT(on)` from an accepting block whose transport answers: the backlight bit is latched, one byte with the held
control lines and nibble and enable 0 is written, and the host gets the write's outcome (`41_latch_write_ops.md` section 2). That
the enable bit is 0 is the spec's decision D10 and the encoding clause its decision D2 (log 15, 17). -/
def Obligations.SetBacklightResult : Prop :=
  (∀ w : CmdWord, w.extractLsb' 4 2 = 0b11#2 → decodeCommand w = .setBacklight (w.getLsbD 0)) ∧
  (∀ (on : Bool) (s : State) (v : Verdict), Accepts s → verdictOf (nextAnswer s) = some v →
    exec (.setBacklight on) s = .next
      { s with
        latch := { rs := s.latch.rs, rw := s.latch.rw, nib := s.latch.nib, bl := on }
        trace := s.trace ++
          [{ addr := s.addr
             byte := compose s.pm { rs := s.latch.rs, rw := s.latch.rw, nib := s.latch.nib, bl := on, e := false }
             result := v }]
        mem := memAfter s (compose s.pm { rs := s.latch.rs, rw := s.latch.rw, nib := s.latch.nib, bl := on, e := false })
          (landsOf (nextAnswer s))
        responses := s.responses ++ [statusOf v]
        answers := s.answers.tail
        draws := s.draws + 1 })

/-- `PULSE_ENABLE` from an accepting block whose first write succeeds and whose second is answered: two writes of the held byte,
enable high then enable low, the latch unchanged, and the host gets the second write's outcome (`42_pulse_enable.md` section 1).
The encoding clause is the spec's decision D2 (log 17). -/
def Obligations.PulseEnableResult : Prop :=
  (∀ w : CmdWord, w.extractLsb' 4 2 = 0b10#2 → decodeCommand w = .pulseEnable) ∧
  (∀ (s : State) (v : Verdict), Accepts s → nextAnswer s = .ok → verdictOf (nextAnswer (takeAnswer s)) = some v →
    exec .pulseEnable s = .next
      { s with
        trace := s.trace ++
          [{ addr := s.addr
             byte := compose s.pm { rs := s.latch.rs, rw := s.latch.rw, nib := s.latch.nib, bl := s.latch.bl, e := true }
             result := .ok },
           { addr := s.addr
             byte := compose s.pm { rs := s.latch.rs, rw := s.latch.rw, nib := s.latch.nib, bl := s.latch.bl, e := false }
             result := v }]
        mem :=
          let high := Memory.write s.mem s.addr.toNat
            (compose s.pm { rs := s.latch.rs, rw := s.latch.rw, nib := s.latch.nib, bl := s.latch.bl, e := true })
          if landsOf (nextAnswer (takeAnswer s)) then
            Memory.write high s.addr.toNat
              (compose s.pm { rs := s.latch.rs, rw := s.latch.rw, nib := s.latch.nib, bl := s.latch.bl, e := false })
          else high
        responses := s.responses ++ [statusOf v]
        answers := s.answers.tail.tail
        draws := s.draws + 2 })

/-- The two bytes of a pulse differ in the enable bit alone, which is 1 in the first and 0 in the second, and agree on every other
signal (`42_pulse_enable.md` R79 and the corner cases of section 1). -/
def Obligations.PulseBytesDifferInEnableOnly : Prop :=
  ∀ (pm : PinMap) (l : Latch), pm.Valid →
    compose pm (l.levels true) = compose pm (l.levels false) ||| mask pm .e ∧
    compose pm (l.levels false) = compose pm (l.levels true) &&& ~~~(mask pm .e) ∧
    compose pm (l.levels true) ^^^ compose pm (l.levels false) = mask pm .e ∧
    decompose pm (compose pm (l.levels true)) = l.levels true ∧
    decompose pm (compose pm (l.levels false)) = l.levels false

/-- A first pulse write that fails ends the operation: one event, no second write, the transport's own error to the host, the latch
unchanged, the pins as they were or holding the enable-high byte (`42_pulse_enable.md` R80). -/
def Obligations.FailedFirstPulseWriteAborts : Prop :=
  ∀ (s : State) (x : TransportError) (landed : Bool), Accepts s → nextAnswer s = .err x landed →
    ∃ t, exec .pulseEnable s = .next t ∧
      t.responses = s.responses ++ [.busError x] ∧
      t.trace = s.trace ++
        [{ addr := s.addr
           byte := compose s.pm { rs := s.latch.rs, rw := s.latch.rw, nib := s.latch.nib, bl := s.latch.bl, e := true }
           result := .err x }] ∧
      t.latch = s.latch ∧ t.ph = .idle ∧
      (t.pins = s.pins ∨ t.pins = compose s.pm
        { rs := s.latch.rs, rw := s.latch.rw, nib := s.latch.nib, bl := s.latch.bl, e := true })

/-- `CONFIGURE_DEFAULT` on an idle block: address and default PinMap configured, the latch at its reset values, an empty trace,
`READY`, and no bus write (`40_pinmap_decoder.md` sections 1 and 4). The encoding clause is the spec's decision D4, the absence of a
write its decision D8, the three parameters `Config.resetRs`, `Config.resetRw` and `Config.resetNib` its decision D7 (log 17, 13,
4). -/
def Obligations.ConfigureDefaultResult : Prop :=
  (∀ w : CfgWord, w.getLsbD 31 = true → decodeConfig w = .configureDefault (w.extractLsb' 24 7)) ∧
  (∀ (a : BusAddr) (s : State), s.ph = .idle →
    exec (.configureDefault a) s = .next
      { s with
        addr := a
        pm := Config.defaultPinMap
        st := .ready
        latch := { rs := Config.resetRs, rw := Config.resetRw, nib := Config.resetNib, bl := true }
        trace := []
        responses := s.responses ++ [.ok] })

/-- `CONFIGURE_OVERRIDE` with eight distinct positions on an idle block: address and override PinMap configured, the latch at its
reset values, an empty trace, `READY`, and no bus write (`40_pinmap_decoder.md` sections 1 and 4). The encoding clause is the spec's
decision D4, the absence of a write its decision D8, the three parameters its decision D7 (log 17, 13, 4). -/
def Obligations.ConfigureOverrideResult : Prop :=
  (∀ w : CfgWord, w.getLsbD 31 = false →
    decodeConfig w = .configureOverride (w.extractLsb' 24 7)
      { rs := w.extractLsb' 0 3, rw := w.extractLsb' 3 3, e := w.extractLsb' 6 3, d4 := w.extractLsb' 9 3,
        d5 := w.extractLsb' 12 3, d6 := w.extractLsb' 15 3, d7 := w.extractLsb' 18 3, bl := w.extractLsb' 21 3 }) ∧
  (∀ (a : BusAddr) (pm : PinMap) (s : State), s.ph = .idle → pm.Valid →
    exec (.configureOverride a pm) s = .next
      { s with
        addr := a
        pm := pm
        st := .ready
        latch := { rs := Config.resetRs, rw := Config.resetRw, nib := Config.resetNib, bl := true }
        trace := []
        responses := s.responses ++ [.ok] })

/-- `ConfigError` (`60_exceptions.md` R96, `40_pinmap_decoder.md` R66): an override with a duplicate position fails construction with
it, without payload and without a bus transaction, and leaves the block inert; no other operation ever answers with it; only a new
construction leads on. The status `CONFIG_ERROR` is the spec's decision D22; that an unaccepted command passes by is the model's
choice (log 10), and that a failed construction leaves the trace is its inference (log 18). -/
def Obligations.DuplicatePositionsFailConstruction : Prop :=
  (∀ (a : BusAddr) (pm : PinMap) (s : State), s.ph = .idle → ¬ pm.Valid →
    ∃ t, exec (.configureOverride a pm) s = .next t ∧ t.st = .configError ∧
      t.responses = s.responses ++ [.configError] ∧ statusPayload .configError = none ∧
      t.trace = s.trace ∧ t.mem = s.mem) ∧
  (∀ (i : Instr) (s t : State), exec i s = .next t → t.responses = s.responses ++ [.configError] →
    ∃ a pm, i = .configureOverride a pm ∧ ¬ pm.Valid) ∧
  (∀ (i : Instr) (s : State), s.st = .configError → s.ph = .idle → i.IsCommand → exec i s = .next s) ∧
  (∀ (s t : State), s.st = .configError → s.ph = .idle → step s = .next t → t.st ≠ .configError →
    ∃ w rest, s.requests = .configure w :: rest) ∧
  (∀ (a : BusAddr) (pm : PinMap) (s : State), s.st = .configError → s.ph = .idle → pm.Valid →
    ∃ t, exec (.configureOverride a pm) s = .next t ∧ t.st = .ready)

/-- An operation of the latch-and-write family issues its one bus write also when its operand is what the latch already holds
(`41_latch_write_ops.md` R73). That the byte has enable 0 also for `SET_DATA_NIBBLE` and `SET_BACKLIGHT` is the spec's decision D10
(log 15). -/
def Obligations.RepeatedOperandStillWrites : Prop :=
  ∀ (i : Instr) (s : State) (v : Verdict), IsLatchWrite i → applyOperand i s.latch = s.latch → Accepts s →
    verdictOf (nextAnswer s) = some v →
    ∃ t, exec i s = .next t ∧ t.latch = s.latch ∧
      t.trace = s.trace ++ [{ addr := s.addr, byte := compose s.pm (s.latch.levels false), result := v }]

/-- The latch is updated before the write and never rolled back: after the one attempt, failed or not, it holds the operand, and
the next operation of any kind composes its bytes with it (`41_latch_write_ops.md` R76). -/
def Obligations.NoRollbackAfterFailedWrite : Prop :=
  ∀ (i : Instr) (s : State) (v : Verdict), IsLatchWrite i → Accepts s → verdictOf (nextAnswer s) = some v →
    ∃ t, exec i s = .next t ∧ t.latch = applyOperand i s.latch ∧ (newEvents s t).length = 1 ∧
      ∀ (j : Instr) (u : State), j.IsCommand → exec j t = .next u →
        u.latch = applyOperand j (applyOperand i s.latch) ∧
        ∀ e ∈ newEvents t u, ∃ en, e.byte = compose s.pm ((applyOperand j (applyOperand i s.latch)).levels en)

/-- The state in which the host sees a bus error (`60_exceptions.md` R90): idle, still `READY`, configuration unchanged, the latch
with the operation's operand in it, the failed event last in the trace, and the pins between two values. -/
def Obligations.StateAfterBusError : Prop :=
  ∀ (i : Instr) (s t : State) (x : TransportError), i.IsCommand → Accepts s → exec i s = .next t →
    t.responses = s.responses ++ [.busError x] →
    t.ph = .idle ∧ t.st = .ready ∧ t.addr = s.addr ∧ t.pm = s.pm ∧ t.latch = applyOperand i s.latch ∧
    ((∃ b, t.trace = s.trace ++ [{ addr := s.addr, byte := b, result := .err x }] ∧ (t.pins = s.pins ∨ t.pins = b)) ∨
     (i = .pulseEnable ∧ ∃ b1 b0, t.trace = s.trace ++
        [{ addr := s.addr, byte := b1, result := .ok }, { addr := s.addr, byte := b0, result := .err x }] ∧
        (t.pins = b1 ∨ t.pins = b0)))

/-- A bus error is answered exactly when a bus write of the operation returned that error, and for no other reason; and the block
does not look at the error value: other values change nothing but themselves (`60_exceptions.md` R89). -/
def Obligations.BusErrorExactlyOnFailedWrite : Prop :=
  (∀ (i : Instr) (s t : State) (x : TransportError), i.IsCommand → Accepts s → exec i s = .next t →
    (t.responses = s.responses ++ [.busError x] ↔ ∃ e ∈ newEvents s t, e.result = .err x)) ∧
  (∀ (f : TransportError → TransportError) (i : Instr) (s t : State), i.IsCommand → Accepts s → 2 ≤ s.answers.length →
    exec i s = .next t → exec i (renameErrors f s) = .next (renameErrors f t))

/-- Every operation that has been answered has exactly one response, `OK` exactly when all its writes succeeded; one that waits for
the transport has none yet (`30_encoding.md` section 5, `60_exceptions.md` R89; for the waiting one `20_memory.md` section 5,
`42_pulse_enable.md` section 2, the spec's decision D12, and log 6). -/
def Obligations.ResponseTellsAllWritesOk : Prop :=
  ∀ (i : Instr) (s t : State), i.IsCommand → Accepts s → exec i s = .next t →
    (t.ph = .idle → ∃ r, t.responses = s.responses ++ [r] ∧ (r = .ok ↔ ∀ e ∈ newEvents s t, e.result = .ok)) ∧
    (t.ph ≠ .idle → t.responses = s.responses)

/-- After any run-time operation that returns `OK` the pins show what the latch intends, enable low (`42_pulse_enable.md` R79,
`70_reset_and_hazards.md` R108). Enable low for `SET_DATA_NIBBLE` and `SET_BACKLIGHT` is the spec's decision D10 (log 15), that no
other agent writes to the device its decision D25 (log 22). -/
def Obligations.SuccessBringsPinsToLatch : Prop :=
  ∀ (i : Instr) (s t : State), i.IsCommand → Accepts s → exec i s = .next t →
    t.responses = s.responses ++ [.ok] → InSync t

/-- The enable bit is 1 in no byte but the first of a `PULSE_ENABLE` (`10_state.md` section 3); that it is 0 in the bytes of
`SET_DATA_NIBBLE` and `SET_BACKLIGHT` is the spec's decision D10 (log 15). -/
def Obligations.EnableHighOnlyInFirstPulseByte : Prop :=
  ∀ (i : Instr) (s t : State) (e : BusEvent), i.IsCommand → Accepts s → s.pm.Valid → exec i s = .next t →
    e ∈ newEvents s t → bitAt e.byte s.pm.e = true → i = .pulseEnable ∧ (newEvents s t).head? = some e

/-- Two pulses in a row whose writes succeed are two full pulses: high, low, high, low (`42_pulse_enable.md` section 1). -/
def Obligations.TwoPulsesAreFourWrites : Prop :=
  ∀ s : State, Accepts s → AllOk 4 s →
    ∃ t, execAll [.pulseEnable, .pulseEnable] s = .next t ∧
      (newEvents s t).map (fun e => e.byte) =
        [compose s.pm (s.latch.levels true), compose s.pm (s.latch.levels false),
         compose s.pm (s.latch.levels true), compose s.pm (s.latch.levels false)] ∧
      t.responses = s.responses ++ [.ok, .ok]

/-! ### When an operation is not executed -/

/-- A run-time command is accepted only in `READY`: otherwise an idle block makes no write, gives no response and changes nothing
(`10_state.md` section 8, the spec's decision D22; that the command passes by is the model's choice, log 10). -/
def Obligations.CommandsNeedReady : Prop :=
  ∀ (i : Instr) (s : State), i.IsCommand → s.ph = .idle → s.st ≠ .ready → exec i s = .next s

/-- A busy block does not accept a command: it goes on with the write of its phase, and the command stays presented
(`42_pulse_enable.md` section 2, the spec's decision D13; log 11). -/
def Obligations.BusyBlockHoldsCommand : Prop :=
  ∀ (i : Instr) (s : State), i.IsCommand → s.ph ≠ .idle →
    ∃ t u, exec i s = .next t ∧ step s = .next u ∧ t = { u with requests := encode i :: u.requests } ∧
      t.latch = s.latch ∧ (newEvents s t).length ≤ 1

/-- Construction while an operation is in flight is refused by name (`70_reset_and_hazards.md` section 1, the spec's U6;
log 12). -/
def Obligations.ResetInFlightIsRefused : Prop :=
  ∀ (i : Instr) (s : State), ¬ i.IsCommand → s.ph ≠ .idle → exec i s = .refused .resetInFlight

/-- While the transport has not answered, an accepted operation waits in its phase: the operand is latched, and there is no event of
the unanswered write and no response; a pulse whose second write is unanswered waits in `PULSE_LO` with its first event
(`20_memory.md` section 5, `42_pulse_enable.md` section 2; the spec's decision D12; log 6, 26). -/
def Obligations.SilentTransportMakesTheBlockWait : Prop :=
  (∀ (i : Instr) (s : State), IsLatchWrite i → Accepts s → nextAnswer s = .silent →
    exec i s = .next { s with
      latch := applyOperand i s.latch, ph := .write, answers := s.answers.tail, draws := s.draws + 1 }) ∧
  (∀ s : State, Accepts s → nextAnswer s = .silent →
    exec .pulseEnable s = .next { s with ph := .pulseHi, answers := s.answers.tail, draws := s.draws + 1 }) ∧
  (∀ s : State, Accepts s → nextAnswer s = .ok → nextAnswer (takeAnswer s) = .silent →
    exec .pulseEnable s = .next
      { s with
        ph := .pulseLo
        trace := s.trace ++ [{ addr := s.addr, byte := compose s.pm (s.latch.levels true), result := .ok }]
        mem := Memory.write s.mem s.addr.toNat (compose s.pm (s.latch.levels true))
        answers := s.answers.tail.tail
        draws := s.draws + 2 }) ∧
  (∀ s : State, s.ph ≠ .idle → nextAnswer s = .silent →
    step s = .next { s with answers := s.answers.tail, draws := s.draws + 1 })

/-- Calls with plain numbers: an operand outside its type is refused and never truncated, a position above 7 is a configuration
error where construction can run, and every call in range is its operation, in both forms of `configure` (`30_encoding.md`
section 4, `40_pinmap_decoder.md` section 2; the spec's decisions D2 and D18; log 12, 18, 24). -/
def Obligations.CallsOutsideTheirTypes : Prop :=
  (∀ (n : Nat) (s : State), execCall (.setDataNibble n) s =
    if n < 16 then exec (.setDataNibble (BitVec.ofNat 4 n)) s else .refused .operandOutOfType) ∧
  (∀ (a : Nat) (c : PinChoice) (s : State), 128 ≤ a → execCall (.configure a c) s = .refused .operandOutOfType) ∧
  (∀ (a rs rw e d4 d5 d6 d7 bl : Nat) (s : State), a < 128 →
    7 < rs ∨ 7 < rw ∨ 7 < e ∨ 7 < d4 ∨ 7 < d5 ∨ 7 < d6 ∨ 7 < d7 ∨ 7 < bl →
    if s.ph = .idle then
      ∃ t, execCall (.configure a (.override rs rw e d4 d5 d6 d7 bl)) s = .next t ∧ t.st = .configError ∧
        t.responses = s.responses ++ [.configError] ∧ t.trace = s.trace
    else execCall (.configure a (.override rs rw e d4 d5 d6 d7 bl)) s = .refused .resetInFlight) ∧
  (∀ (a : BusAddr) (pm : PinMap) (s : State),
    execCall (.configure a.toNat (.override pm.rs.toNat pm.rw.toNat pm.e.toNat pm.d4.toNat pm.d5.toNat pm.d6.toNat
      pm.d7.toNat pm.bl.toNat)) s = exec (.configureOverride a pm) s) ∧
  (∀ (a : BusAddr) (s : State), execCall (.configure a.toNat .default) s = exec (.configureDefault a) s) ∧
  (∀ (rs rw : Bool) (s : State), execCall (.setControl rs rw) s = exec (.setControl rs rw) s) ∧
  (∀ s : State, execCall .pulseEnable s = exec .pulseEnable s) ∧
  (∀ (on : Bool) (s : State), execCall (.setBacklight on) s = exec (.setBacklight on) s)

/-! ### The step -/

/-- An idle block with a request presented executes the operation that request spells, the request taken. -/
def Obligations.StepRunsThePresentedOperation : Prop :=
  ∀ (s : State) (r : Request) (rest : List Request), s.ph = .idle → s.requests = r :: rest →
    step s = exec (decode r) { s with requests := rest }

/-- A word placed for the step is the operation the next step executes; it does nothing else. -/
def Obligations.PlacedWordIsRun : Prop :=
  ∀ (s : State) (nbits w : Nat) (i : Instr), decodeTableWord nbits w = some i →
    step (s.withFetchWord nbits w) = exec i { s with ph := .idle }

/-- An idle block with nothing presented stays as it is (`70_reset_and_hazards.md` R113; log 9). -/
def Obligations.IdleStepChangesNothing : Prop :=
  ∀ s : State, s.ph = .idle → s.requests = [] → step s = .next s

/-- The issue steps of the sequencer (`42_pulse_enable.md` section 2, the spec's decision D12): in each busy phase one write of the
byte composed from the latch, enable 1 exactly in `PULSE_HI`; the transition, the response and the trace its answer gives. -/
def Obligations.SequencerIssueSteps : Prop :=
  (∀ (s : State) (v : Verdict), (s.ph = .write ∨ s.ph = .pulseLo) → verdictOf (nextAnswer s) = some v →
    step s = .next
      { s with
        ph := .idle
        trace := s.trace ++ [{ addr := s.addr, byte := compose s.pm (s.latch.levels false), result := v }]
        mem := memAfter s (compose s.pm (s.latch.levels false)) (landsOf (nextAnswer s))
        responses := s.responses ++ [statusOf v]
        answers := s.answers.tail
        draws := s.draws + 1 }) ∧
  (∀ s : State, s.ph = .pulseHi → nextAnswer s = .ok →
    step s = .next
      { s with
        ph := .pulseLo
        trace := s.trace ++ [{ addr := s.addr, byte := compose s.pm (s.latch.levels true), result := .ok }]
        mem := memAfter s (compose s.pm (s.latch.levels true)) true
        answers := s.answers.tail
        draws := s.draws + 1 }) ∧
  (∀ (s : State) (x : TransportError) (landed : Bool), s.ph = .pulseHi → nextAnswer s = .err x landed →
    step s = .next
      { s with
        ph := .idle
        trace := s.trace ++ [{ addr := s.addr, byte := compose s.pm (s.latch.levels true), result := .err x }]
        mem := memAfter s (compose s.pm (s.latch.levels true)) landed
        responses := s.responses ++ [.busError x]
        answers := s.answers.tail
        draws := s.draws + 1 })

/-! ### Frames -/

/-- What the run-time operations leave unchanged, in every state: the configuration and the lifecycle status, the latch fields
that are not the operation's, and the pins of every device but the configured one; the trace and the responses only grow, and an
accepted operation takes no further request. -/
def Obligations.FrameOfRunTimeOperations : Prop :=
  ∀ (i : Instr) (s t : State), i.IsCommand → exec i s = .next t →
    t.addr = s.addr ∧ t.pm = s.pm ∧ t.st = s.st ∧
    (t.latch = s.latch ∨ (Accepts s ∧ t.latch = applyOperand i s.latch)) ∧
    (∀ a, a ≠ s.addr.toNat → Memory.read t.mem a = Memory.read s.mem a) ∧
    s.trace <+: t.trace ∧ s.responses <+: t.responses ∧
    (s.ph = .idle → t.requests = s.requests)

/-- `SET_CONTROL`, `SET_DATA_NIBBLE` and `SET_BACKLIGHT` write only their own latch fields, and `PULSE_ENABLE` writes none, in every
state (`10_state.md` R15). -/
def Obligations.LatchFieldsEachOperationKeeps : Prop :=
  (∀ (rs rw : Bool) (s t : State), exec (.setControl rs rw) s = .next t →
    t.latch.nib = s.latch.nib ∧ t.latch.bl = s.latch.bl) ∧
  (∀ (n : Nibble) (s t : State), exec (.setDataNibble n) s = .next t →
    t.latch.rs = s.latch.rs ∧ t.latch.rw = s.latch.rw ∧ t.latch.bl = s.latch.bl) ∧
  (∀ (on : Bool) (s t : State), exec (.setBacklight on) s = .next t →
    t.latch.rs = s.latch.rs ∧ t.latch.rw = s.latch.rw ∧ t.latch.nib = s.latch.nib) ∧
  (∀ s t : State, exec .pulseEnable s = .next t → t.latch = s.latch)

/-- What construction leaves unchanged, in both forms and both outcomes: the pins of every device, the requests, the transport's
answers; it issues no write (`40_pinmap_decoder.md` section 4, the spec's decision D8; log 13). A failed construction leaves the
trace, the configuration and the latch too (log 18). -/
def Obligations.FrameOfConstruction : Prop :=
  ∀ (i : Instr) (s t : State), ¬ i.IsCommand → exec i s = .next t →
    t.mem = s.mem ∧ t.requests = s.requests ∧ t.answers = s.answers ∧ t.draws = s.draws ∧ t.ph = .idle ∧
    s.responses <+: t.responses ∧
    (t.st = .configError → t.trace = s.trace ∧ t.addr = s.addr ∧ t.pm = s.pm ∧ t.latch = s.latch)

/-- After construction the address and the PinMap are immutable (`40_pinmap_decoder.md` R67): no run-time operation changes them;
a step that does was a new construction, which also re-initialises the latch. -/
def Obligations.ConfigurationIsImmutable : Prop :=
  (∀ (i : Instr) (s t : State), i.IsCommand → exec i s = .next t → t.addr = s.addr ∧ t.pm = s.pm) ∧
  (∀ s t : State, step s = .next t → (t.addr ≠ s.addr ∨ t.pm ≠ s.pm) →
    ∃ w rest, s.ph = .idle ∧ s.requests = .configure w :: rest ∧ t.latch = Latch.reset ∧ t.trace = [])

/-- Every step appends to the trace at most two events, all to the configured address, unless it constructs anew, which empties it
(`20_memory.md` R26, `10_state.md` R20). -/
def Obligations.TraceOnlyGrows : Prop :=
  ∀ s t : State, step s = .next t →
    (∃ es, t.trace = s.trace ++ es ∧ es.length ≤ 2 ∧ ∀ e ∈ es, e.addr = s.addr) ∨
    (∃ w rest, s.requests = .configure w :: rest ∧ s.ph = .idle ∧ t.trace = [])

/-! ### Invariants -/

/-- Every step keeps the canonical form of the pins: addresses rising strictly, all in the 7-bit address space (`20_memory.md`
section 1), and no entry equal to the free value its address reads as without one. That the pins are a list in this form, and the
free value in it, are the model's choice (log 8). -/
def Obligations.StepKeepsMemoryCanonical : Prop :=
  ∀ s t : State, Memory.wf s.mem → step s = .next t → Memory.wf t.mem

/-- Every step keeps the configuration legal: the PinMap the block works with has eight distinct positions, and only a constructed
block is ever busy (`10_state.md` R12). -/
def Obligations.StepKeepsConfigurationLegal : Prop :=
  ∀ s t : State, ConfigLegal s → step s = .next t → ConfigLegal t

/-- Every step keeps the trace addressed to the configured device, and the pins holding the byte of the last event if it succeeded
(`20_memory.md` section 4 and R26). That the pins stay between the block's writes rests on the block being the only writer to
`ADDR`, the spec's decision D25 (log 22). -/
def Obligations.StepKeepsPinsOnLastByte : Prop :=
  ∀ s t : State, TraceAddressed s → PinsHoldLast s → step s = .next t → TraceAddressed t ∧ PinsHoldLast t

/-- Every step keeps the shape of the enable strobe over the whole trace: each successful enable-high byte is followed by the same
byte with enable low, or the second write of its pulse is pending (`42_pulse_enable.md` R85). That the bytes of `SET_DATA_NIBBLE` and
`SET_BACKLIGHT` do not raise enable is the spec's decision D10 (log 15), the phase in which the second write is pending its decision
D12. -/
def Obligations.StepKeepsStrobeShape : Prop :=
  ∀ s t : State, ConfigLegal s → StrobeShape s → step s = .next t → StrobeShape t

/-- The machine right after reset meets all four invariants. -/
def Obligations.ResetMeetsInvariants : Prop :=
  Memory.wf State.reset.mem ∧ ConfigLegal State.reset ∧ TraceAddressed State.reset ∧ PinsHoldLast State.reset ∧
    StrobeShape State.reset

/-- What reset leaves (`10_state.md` section 9): the backlight on, idle, `READY`, an empty trace, the free value on the pins; and it is the state
that `CONFIGURE_DEFAULT` with the configured address reaches from before construction. The three latch parameters, the default
PinMap and the address are open parameters named in Config, and that the reset state is the constructed one is the model's choice
(log 1, 2, 3, 4, 8, 28). -/
def Obligations.ResetIsConstructionWithTheDefault : Prop :=
  State.reset.latch.bl = true ∧ State.reset.ph = .idle ∧ State.reset.st = .ready ∧ State.reset.trace = [] ∧
    State.reset.pins = Config.initialPins Config.addr.toNat ∧ exec (.configureDefault Config.addr) State.powerOn = .next State.reset

/-! ### Whole runs -/

/-- The big-step rule of every run-time operation and the small-step machine agree: accepting the command and issuing writes until
idle gives exactly the same state, when the transport answers (`42_pulse_enable.md` R83). -/
def Obligations.BigStepAgreesWithSequencer : Prop :=
  ∀ (i : Instr) (s : State) (k : Nat), i.IsCommand → Accepts s → Answering 2 s → 2 ≤ k →
    exec i s = .next (issueRun k (accept i s)) ∧ (issueRun k (accept i s)).ph = .idle

/-- An operation that had to wait for the transport, however long and at whichever of its writes, ends as it would have ended at
once, but for the count of answers taken: where the wait begins the block is busy with no response, at the first write with no
event and at the second write of a pulse with the first event only (`20_memory.md` section 5, `42_pulse_enable.md` R83; the
spec's decision D12; log 5, 6, 26). -/
def Obligations.WaitingOperationEndsTheSame : Prop :=
  (∀ (i : Instr) (s : State) (n : Nat), i.IsCommand → Accepts s → Answering 2 s →
    ∃ u t, exec i { s with answers := List.replicate (n + 1) .silent ++ s.answers } = .next u ∧ u.ph ≠ .idle ∧
      u.trace = s.trace ∧ u.responses = s.responses ∧ exec i s = .next t ∧
      issueRun (n + 2) u = { t with draws := t.draws + (n + 1) }) ∧
  (∀ (s : State) (n : Nat), Accepts s → Answering 2 s → nextAnswer s = .ok →
    ∃ u t, exec .pulseEnable { s with answers := .ok :: (List.replicate (n + 1) .silent ++ s.answers.tail) } = .next u ∧
      u.ph = .pulseLo ∧
      u.trace = s.trace ++ [{ addr := s.addr, byte := compose s.pm (s.latch.levels true), result := .ok }] ∧
      u.responses = s.responses ∧ exec .pulseEnable s = .next t ∧
      issueRun (n + 1) u = { t with draws := t.draws + (n + 1) }) ∧
  (∀ (s : State) (n m : Nat), Accepts s → Answering 2 s → nextAnswer s = .ok →
    ∃ u t, exec .pulseEnable
        { s with answers := List.replicate n .silent ++ .ok :: (List.replicate m .silent ++ s.answers.tail) } = .next u ∧
      exec .pulseEnable s = .next t ∧ issueRun (n + m + 2) u = { t with draws := t.draws + (n + m) })

/-- Signal independence (`41_latch_write_ops.md` R72): every byte any operation writes decomposes to the most recent value given for
every signal, the operation's own included and failed ones too, or, where none was given, to the value after construction: the
three parameters, and the backlight on. The same holds of a run that starts in any accepting state, with that state's latch in
their place. -/
def Obligations.SignalIndependence : Prop :=
  (∀ (a : BusAddr) (pm : PinMap) (is : List Instr) (j : Instr) (s0 : State), s0.ph = .idle → pm.Valid →
    (∀ i ∈ is, i.IsCommand) → j.IsCommand → Answering (2 * (is.length + 1)) s0 →
    ∃ s t u, exec (.configureOverride a pm) s0 = .next s ∧ execAll is s = .next t ∧ exec j t = .next u ∧ newEvents t u ≠ [] ∧
      ∀ e ∈ newEvents t u,
        (decompose pm e.byte).rs = ((lastControl (is ++ [j])).map Prod.fst).getD Config.resetRs ∧
        (decompose pm e.byte).rw = ((lastControl (is ++ [j])).map Prod.snd).getD Config.resetRw ∧
        (decompose pm e.byte).nib = (lastNibble (is ++ [j])).getD Config.resetNib ∧
        (decompose pm e.byte).bl = (lastBacklight (is ++ [j])).getD true) ∧
  (∀ (is : List Instr) (j : Instr) (s : State), (∀ i ∈ is, i.IsCommand) → j.IsCommand → Accepts s → s.pm.Valid →
    Answering (2 * (is.length + 1)) s →
    ∃ t u, execAll is s = .next t ∧ exec j t = .next u ∧ newEvents t u ≠ [] ∧
      ∀ e ∈ newEvents t u,
        (decompose s.pm e.byte).rs = ((lastControl (is ++ [j])).map Prod.fst).getD s.latch.rs ∧
        (decompose s.pm e.byte).rw = ((lastControl (is ++ [j])).map Prod.snd).getD s.latch.rw ∧
        (decompose s.pm e.byte).nib = (lastNibble (is ++ [j])).getD s.latch.nib ∧
        (decompose s.pm e.byte).bl = (lastBacklight (is ++ [j])).getD s.latch.bl)

/-- Once each of the three latch-writing operations has run, nothing depends on what the latch held before: two runs that differ
only there reach equal latches, and the next operation writes equal events (`10_state.md` section 9). -/
def Obligations.FirstLatchValuesAreForgotten : Prop :=
  ∀ (is : List Instr) (j : Instr) (s : State) (l : Latch), (∀ i ∈ is, i.IsCommand) → j.IsCommand → Accepts s →
    Answering (2 * (is.length + 1)) s → (lastControl is).isSome = true → (lastNibble is).isSome = true →
    (lastBacklight is).isSome = true →
    ∃ t t' u u', execAll is s = .next t ∧ execAll is { s with latch := l } = .next t' ∧ t.latch = t'.latch ∧
      exec j t = .next u ∧ exec j t' = .next u' ∧ newEvents t u = newEvents t' u'

/-- The macro `send_nibble` with no failing write: three operations, four writes, the enable bit high in the third alone
(`30_encoding.md` R56). -/
def Obligations.SendNibbleIsFourWrites : Prop :=
  ∀ (rs rw : Bool) (n : Nibble) (s : State), Accepts s → AllOk 4 s →
    ∃ t, execAll (sendNibble rs rw n) s = .next t ∧
      (newEvents s t).map (fun e => e.byte) =
        [compose s.pm { rs := rs, rw := rw, nib := s.latch.nib, bl := s.latch.bl, e := false },
         compose s.pm { rs := rs, rw := rw, nib := n, bl := s.latch.bl, e := false },
         compose s.pm { rs := rs, rw := rw, nib := n, bl := s.latch.bl, e := true },
         compose s.pm { rs := rs, rw := rw, nib := n, bl := s.latch.bl, e := false }] ∧
      t.latch = { rs := rs, rw := rw, nib := n, bl := s.latch.bl } ∧ t.responses = s.responses ++ [.ok, .ok, .ok]

/-- The codes of the responses, the lifecycle status and the phases (`30_encoding.md` section 5, `10_state.md` sections 4 and 8; the
spec's decisions D12, D14 and D22, log 17): code 3 is never produced for the first two. -/
def Obligations.CodesOfTheOutcomes : Prop :=
  statusCode .ok = 0 ∧ (∀ x, statusCode (.busError x) = 1 ∧ statusPayload (.busError x) = some x) ∧
    statusCode .configError = 2 ∧ statusPayload .configError = none ∧ (∀ r, statusCode r ≠ 3) ∧
    Lifecycle.code .unconfigured = 0 ∧ Lifecycle.code .ready = 1 ∧ Lifecycle.code .configError = 2 ∧
    (∀ l, Lifecycle.code l ≠ 3) ∧
    Phase.code .idle = 0 ∧ Phase.code .write = 1 ∧ Phase.code .pulseHi = 2 ∧ Phase.code .pulseLo = 3
end

