-- ==== Sys2Proof/Laws/State.lean ====
section
/-! SUPPORT. One lemma per field per update of State, true by rfl: no later proof unfolds a record update. -/

namespace Sys2Proof.Machine

/-! ### `takeAnswer` -/

@[simp] theorem takeAnswer_addr (s : State) : (takeAnswer s).addr = s.addr := rfl
@[simp] theorem takeAnswer_pm (s : State) : (takeAnswer s).pm = s.pm := rfl
@[simp] theorem takeAnswer_st (s : State) : (takeAnswer s).st = s.st := rfl
@[simp] theorem takeAnswer_latch (s : State) : (takeAnswer s).latch = s.latch := rfl
@[simp] theorem takeAnswer_ph (s : State) : (takeAnswer s).ph = s.ph := rfl
@[simp] theorem takeAnswer_trace (s : State) : (takeAnswer s).trace = s.trace := rfl
@[simp] theorem takeAnswer_mem (s : State) : (takeAnswer s).mem = s.mem := rfl
@[simp] theorem takeAnswer_responses (s : State) : (takeAnswer s).responses = s.responses := rfl
@[simp] theorem takeAnswer_requests (s : State) : (takeAnswer s).requests = s.requests := rfl
@[simp] theorem takeAnswer_answers (s : State) : (takeAnswer s).answers = s.answers.tail := rfl
@[simp] theorem takeAnswer_draws (s : State) : (takeAnswer s).draws = s.draws + 1 := rfl

/-! ### `busWrite` -/

@[simp] theorem busWrite_addr (b : Byte) (s : State) : (busWrite b s).addr = s.addr := rfl
@[simp] theorem busWrite_pm (b : Byte) (s : State) : (busWrite b s).pm = s.pm := rfl
@[simp] theorem busWrite_st (b : Byte) (s : State) : (busWrite b s).st = s.st := rfl
@[simp] theorem busWrite_latch (b : Byte) (s : State) : (busWrite b s).latch = s.latch := rfl
@[simp] theorem busWrite_ph (b : Byte) (s : State) : (busWrite b s).ph = s.ph := rfl
@[simp] theorem busWrite_trace (b : Byte) (s : State) : (busWrite b s).trace = traceAfter s b (verdictOf (nextAnswer s)) := rfl
@[simp] theorem busWrite_mem (b : Byte) (s : State) : (busWrite b s).mem = memAfter s b (landsOf (nextAnswer s)) := rfl
@[simp] theorem busWrite_responses (b : Byte) (s : State) : (busWrite b s).responses = s.responses := rfl
@[simp] theorem busWrite_requests (b : Byte) (s : State) : (busWrite b s).requests = s.requests := rfl
@[simp] theorem busWrite_answers (b : Byte) (s : State) : (busWrite b s).answers = s.answers.tail := rfl
@[simp] theorem busWrite_draws (b : Byte) (s : State) : (busWrite b s).draws = s.draws + 1 := rfl

/-! ### `respond` -/

@[simp] theorem respond_addr (r : Status) (s : State) : (respond r s).addr = s.addr := rfl
@[simp] theorem respond_pm (r : Status) (s : State) : (respond r s).pm = s.pm := rfl
@[simp] theorem respond_st (r : Status) (s : State) : (respond r s).st = s.st := rfl
@[simp] theorem respond_latch (r : Status) (s : State) : (respond r s).latch = s.latch := rfl
@[simp] theorem respond_ph (r : Status) (s : State) : (respond r s).ph = .idle := rfl
@[simp] theorem respond_trace (r : Status) (s : State) : (respond r s).trace = s.trace := rfl
@[simp] theorem respond_mem (r : Status) (s : State) : (respond r s).mem = s.mem := rfl
@[simp] theorem respond_responses (r : Status) (s : State) : (respond r s).responses = s.responses ++ [r] := rfl
@[simp] theorem respond_requests (r : Status) (s : State) : (respond r s).requests = s.requests := rfl
@[simp] theorem respond_answers (r : Status) (s : State) : (respond r s).answers = s.answers := rfl
@[simp] theorem respond_draws (r : Status) (s : State) : (respond r s).draws = s.draws := rfl

/-! ### `returnOk` -/

@[simp] theorem returnOk_addr (s : State) : (returnOk s).addr = s.addr := rfl
@[simp] theorem returnOk_pm (s : State) : (returnOk s).pm = s.pm := rfl
@[simp] theorem returnOk_st (s : State) : (returnOk s).st = s.st := rfl
@[simp] theorem returnOk_latch (s : State) : (returnOk s).latch = s.latch := rfl
@[simp] theorem returnOk_ph (s : State) : (returnOk s).ph = .idle := rfl
@[simp] theorem returnOk_trace (s : State) : (returnOk s).trace = s.trace := rfl
@[simp] theorem returnOk_mem (s : State) : (returnOk s).mem = s.mem := rfl
@[simp] theorem returnOk_responses (s : State) : (returnOk s).responses = s.responses ++ [.ok] := rfl
@[simp] theorem returnOk_requests (s : State) : (returnOk s).requests = s.requests := rfl
@[simp] theorem returnOk_answers (s : State) : (returnOk s).answers = s.answers := rfl
@[simp] theorem returnOk_draws (s : State) : (returnOk s).draws = s.draws := rfl

/-! ### `raiseBusError` -/

@[simp] theorem raiseBusError_addr (x : TransportError) (s : State) : (raiseBusError x s).addr = s.addr := rfl
@[simp] theorem raiseBusError_pm (x : TransportError) (s : State) : (raiseBusError x s).pm = s.pm := rfl
@[simp] theorem raiseBusError_st (x : TransportError) (s : State) : (raiseBusError x s).st = s.st := rfl
@[simp] theorem raiseBusError_latch (x : TransportError) (s : State) : (raiseBusError x s).latch = s.latch := rfl
@[simp] theorem raiseBusError_ph (x : TransportError) (s : State) : (raiseBusError x s).ph = .idle := rfl
@[simp] theorem raiseBusError_trace (x : TransportError) (s : State) : (raiseBusError x s).trace = s.trace := rfl
@[simp] theorem raiseBusError_mem (x : TransportError) (s : State) : (raiseBusError x s).mem = s.mem := rfl
@[simp] theorem raiseBusError_responses (x : TransportError) (s : State) : (raiseBusError x s).responses = s.responses ++ [.busError x] := rfl
@[simp] theorem raiseBusError_requests (x : TransportError) (s : State) : (raiseBusError x s).requests = s.requests := rfl
@[simp] theorem raiseBusError_answers (x : TransportError) (s : State) : (raiseBusError x s).answers = s.answers := rfl
@[simp] theorem raiseBusError_draws (x : TransportError) (s : State) : (raiseBusError x s).draws = s.draws := rfl

/-! ### `raiseConfigError` -/

@[simp] theorem raiseConfigError_addr (s : State) : (raiseConfigError s).addr = s.addr := rfl
@[simp] theorem raiseConfigError_pm (s : State) : (raiseConfigError s).pm = s.pm := rfl
@[simp] theorem raiseConfigError_st (s : State) : (raiseConfigError s).st = .configError := rfl
@[simp] theorem raiseConfigError_latch (s : State) : (raiseConfigError s).latch = s.latch := rfl
@[simp] theorem raiseConfigError_ph (s : State) : (raiseConfigError s).ph = .idle := rfl
@[simp] theorem raiseConfigError_trace (s : State) : (raiseConfigError s).trace = s.trace := rfl
@[simp] theorem raiseConfigError_mem (s : State) : (raiseConfigError s).mem = s.mem := rfl
@[simp] theorem raiseConfigError_responses (s : State) : (raiseConfigError s).responses = s.responses ++ [.configError] := rfl
@[simp] theorem raiseConfigError_requests (s : State) : (raiseConfigError s).requests = s.requests := rfl
@[simp] theorem raiseConfigError_answers (s : State) : (raiseConfigError s).answers = s.answers := rfl
@[simp] theorem raiseConfigError_draws (s : State) : (raiseConfigError s).draws = s.draws := rfl

/-! ### `waitIn` -/

@[simp] theorem waitIn_addr (p : Phase) (s : State) : (waitIn p s).addr = s.addr := rfl
@[simp] theorem waitIn_pm (p : Phase) (s : State) : (waitIn p s).pm = s.pm := rfl
@[simp] theorem waitIn_st (p : Phase) (s : State) : (waitIn p s).st = s.st := rfl
@[simp] theorem waitIn_latch (p : Phase) (s : State) : (waitIn p s).latch = s.latch := rfl
@[simp] theorem waitIn_ph (p : Phase) (s : State) : (waitIn p s).ph = p := rfl
@[simp] theorem waitIn_trace (p : Phase) (s : State) : (waitIn p s).trace = s.trace := rfl
@[simp] theorem waitIn_mem (p : Phase) (s : State) : (waitIn p s).mem = s.mem := rfl
@[simp] theorem waitIn_responses (p : Phase) (s : State) : (waitIn p s).responses = s.responses := rfl
@[simp] theorem waitIn_requests (p : Phase) (s : State) : (waitIn p s).requests = s.requests := rfl
@[simp] theorem waitIn_answers (p : Phase) (s : State) : (waitIn p s).answers = s.answers := rfl
@[simp] theorem waitIn_draws (p : Phase) (s : State) : (waitIn p s).draws = s.draws := rfl

/-! ### `constructed` -/

@[simp] theorem constructed_addr (a : BusAddr) (m : PinMap) (s : State) : (constructed a m s).addr = a := rfl
@[simp] theorem constructed_pm (a : BusAddr) (m : PinMap) (s : State) : (constructed a m s).pm = m := rfl
@[simp] theorem constructed_st (a : BusAddr) (m : PinMap) (s : State) : (constructed a m s).st = .ready := rfl
@[simp] theorem constructed_latch (a : BusAddr) (m : PinMap) (s : State) : (constructed a m s).latch = Latch.reset := rfl
@[simp] theorem constructed_ph (a : BusAddr) (m : PinMap) (s : State) : (constructed a m s).ph = .idle := rfl
@[simp] theorem constructed_trace (a : BusAddr) (m : PinMap) (s : State) : (constructed a m s).trace = [] := rfl
@[simp] theorem constructed_mem (a : BusAddr) (m : PinMap) (s : State) : (constructed a m s).mem = s.mem := rfl
@[simp] theorem constructed_responses (a : BusAddr) (m : PinMap) (s : State) : (constructed a m s).responses = s.responses ++ [.ok] := rfl
@[simp] theorem constructed_requests (a : BusAddr) (m : PinMap) (s : State) : (constructed a m s).requests = s.requests := rfl
@[simp] theorem constructed_answers (a : BusAddr) (m : PinMap) (s : State) : (constructed a m s).answers = s.answers := rfl
@[simp] theorem constructed_draws (a : BusAddr) (m : PinMap) (s : State) : (constructed a m s).draws = s.draws := rfl

/-! ### `hold` -/

@[simp] theorem hold_addr (r : Request) (s : State) : (hold r s).addr = (issue s).addr := rfl
@[simp] theorem hold_pm (r : Request) (s : State) : (hold r s).pm = (issue s).pm := rfl
@[simp] theorem hold_st (r : Request) (s : State) : (hold r s).st = (issue s).st := rfl
@[simp] theorem hold_latch (r : Request) (s : State) : (hold r s).latch = (issue s).latch := rfl
@[simp] theorem hold_ph (r : Request) (s : State) : (hold r s).ph = (issue s).ph := rfl
@[simp] theorem hold_trace (r : Request) (s : State) : (hold r s).trace = (issue s).trace := rfl
@[simp] theorem hold_mem (r : Request) (s : State) : (hold r s).mem = (issue s).mem := rfl
@[simp] theorem hold_responses (r : Request) (s : State) : (hold r s).responses = (issue s).responses := rfl
@[simp] theorem hold_requests (r : Request) (s : State) : (hold r s).requests = r :: s.requests := rfl
@[simp] theorem hold_answers (r : Request) (s : State) : (hold r s).answers = (issue s).answers := rfl
@[simp] theorem hold_draws (r : Request) (s : State) : (hold r s).draws = (issue s).draws := rfl

/-! ### `present` -/

@[simp] theorem present_addr (r : Request) (s : State) : (present r s).addr = s.addr := rfl
@[simp] theorem present_pm (r : Request) (s : State) : (present r s).pm = s.pm := rfl
@[simp] theorem present_st (r : Request) (s : State) : (present r s).st = s.st := rfl
@[simp] theorem present_latch (r : Request) (s : State) : (present r s).latch = s.latch := rfl
@[simp] theorem present_ph (r : Request) (s : State) : (present r s).ph = .idle := rfl
@[simp] theorem present_trace (r : Request) (s : State) : (present r s).trace = s.trace := rfl
@[simp] theorem present_mem (r : Request) (s : State) : (present r s).mem = s.mem := rfl
@[simp] theorem present_responses (r : Request) (s : State) : (present r s).responses = s.responses := rfl
@[simp] theorem present_requests (r : Request) (s : State) : (present r s).requests = r :: s.requests := rfl
@[simp] theorem present_answers (r : Request) (s : State) : (present r s).answers = s.answers := rfl
@[simp] theorem present_draws (r : Request) (s : State) : (present r s).draws = s.draws := rfl

/-! ### The latch -/

@[simp] theorem Latch.setControl_rs (l : Latch) (a b : Bool) : (l.setControl a b).rs = a := rfl
@[simp] theorem Latch.setControl_rw (l : Latch) (a b : Bool) : (l.setControl a b).rw = b := rfl
@[simp] theorem Latch.setControl_nib (l : Latch) (a b : Bool) : (l.setControl a b).nib = l.nib := rfl
@[simp] theorem Latch.setControl_bl (l : Latch) (a b : Bool) : (l.setControl a b).bl = l.bl := rfl

@[simp] theorem Latch.setNibble_rs (l : Latch) (n : Nibble) : (l.setNibble n).rs = l.rs := rfl
@[simp] theorem Latch.setNibble_rw (l : Latch) (n : Nibble) : (l.setNibble n).rw = l.rw := rfl
@[simp] theorem Latch.setNibble_nib (l : Latch) (n : Nibble) : (l.setNibble n).nib = n := rfl
@[simp] theorem Latch.setNibble_bl (l : Latch) (n : Nibble) : (l.setNibble n).bl = l.bl := rfl

@[simp] theorem Latch.setBacklight_rs (l : Latch) (a : Bool) : (l.setBacklight a).rs = l.rs := rfl
@[simp] theorem Latch.setBacklight_rw (l : Latch) (a : Bool) : (l.setBacklight a).rw = l.rw := rfl
@[simp] theorem Latch.setBacklight_nib (l : Latch) (a : Bool) : (l.setBacklight a).nib = l.nib := rfl
@[simp] theorem Latch.setBacklight_bl (l : Latch) (a : Bool) : (l.setBacklight a).bl = a := rfl

@[simp] theorem Latch.levels_rs (l : Latch) (e : Bool) : (l.levels e).rs = l.rs := rfl
@[simp] theorem Latch.levels_rw (l : Latch) (e : Bool) : (l.levels e).rw = l.rw := rfl
@[simp] theorem Latch.levels_nib (l : Latch) (e : Bool) : (l.levels e).nib = l.nib := rfl
@[simp] theorem Latch.levels_bl (l : Latch) (e : Bool) : (l.levels e).bl = l.bl := rfl
@[simp] theorem Latch.levels_e (l : Latch) (e : Bool) : (l.levels e).e = e := rfl

end Sys2Proof.Machine
end

