-- ==== Sys2Proof/Laws/Memory.lean ====
section
/-! SUPPORT. The laws of the pins: a write is read back, leaves every other address alone, and keeps the canonical form. -/

namespace Sys2Proof.Machine

@[simp] theorem Memory.read_nil (a : Nat) : Memory.read [] a = Memory.unlisted a := rfl

@[simp] theorem Memory.read_cons (c : Host.Cell) (m : Memory) (a : Nat) :
    Memory.read (c :: m) a = if c.1 = a then c.2 else Memory.read m a := rfl

/-- An erased address reads as unlisted, every other as before. -/
theorem Memory.read_erase (m : Memory) (a a' : Nat) :
    Memory.read (m.erase a) a' = if a' = a then Memory.unlisted a else Memory.read m a' := by
  induction m with
  | nil => by_cases h : a' = a <;> simp [Memory.erase, h]
  | cons c m ih =>
    unfold Memory.erase at ih ⊢
    by_cases hc : c.1 = a
    · rw [List.filter_cons_of_neg (by simpa using hc), ih]
      by_cases h : a' = a
      · simp [h]
      · simp [h, hc, Ne.symm h]
    · rw [List.filter_cons_of_pos (by simpa using hc), Memory.read_cons, ih]
      by_cases h : a' = a <;> simp [h, hc]

/-- An inserted byte is read where no entry had its address, and every other address reads as before. -/
theorem Memory.read_insert {m : Memory} {a : Nat} (b : Byte) (a' : Nat) (h : ∀ c ∈ m, c.1 ≠ a) :
    Memory.read (m.insert a b) a' = if a' = a then b else Memory.read m a' := by
  induction m with
  | nil => simp [Memory.insert, eq_comm]
  | cons c m ih =>
    have hc : c.1 ≠ a := h c List.mem_cons_self
    unfold Memory.insert
    split
    · rw [Memory.read_cons]; simp only [eq_comm]
    · rw [Memory.read_cons, ih fun d hd => h d (List.mem_cons_of_mem _ hd)]
      by_cases ha : a' = a <;> simp [ha, hc]

theorem Memory.mem_erase {m : Memory} {a : Nat} {c : Host.Cell} : c ∈ m.erase a ↔ c ∈ m ∧ c.1 ≠ a := by
  simp [Memory.erase]

theorem Memory.mem_insert {m : Memory} {a : Nat} {b : Byte} {c : Host.Cell} (h : c ∈ m.insert a b) : c = (a, b) ∨ c ∈ m := by
  induction m with
  | nil => simpa [Memory.insert] using h
  | cons d m ih =>
    unfold Memory.insert at h
    split at h
    · simpa using h
    · rcases List.mem_cons.mp h with h | h
      · exact .inr (h ▸ List.mem_cons_self)
      · exact (ih h).imp id (List.mem_cons_of_mem _)

/-- What a write does to every address: the byte is read back, and every other address is left alone. -/
theorem Memory.read_write (m : Memory) (a a' : Nat) (b : Byte) :
    Memory.read (m.write a b) a' = if a' = a then b else Memory.read m a' := by
  unfold Memory.write
  split
  · next hb => rw [Memory.read_erase, hb]
  · rw [Memory.read_insert b a' fun c hc => (Memory.mem_erase.mp hc).2, Memory.read_erase]
    by_cases h : a' = a <;> simp [h]

@[simp] theorem Memory.read_write_same (m : Memory) (a : Nat) (b : Byte) : Memory.read (m.write a b) a = b := by
  simp [Memory.read_write]

theorem Memory.read_write_other (m : Memory) (a a' : Nat) (b : Byte) (h : a' ≠ a) :
    Memory.read (m.write a b) a' = Memory.read m a' := by
  simp [Memory.read_write, h]

/-- Insertion keeps the addresses rising where no entry had the new one. -/
theorem Memory.insert_pairwise {m : Memory} {a : Nat} (b : Byte) (h : ∀ c ∈ m, c.1 ≠ a)
    (hm : m.Pairwise (fun c d => c.1 < d.1)) : (m.insert a b).Pairwise (fun c d => c.1 < d.1) := by
  induction m with
  | nil => simp [Memory.insert]
  | cons d m ih =>
    obtain ⟨hd, hp⟩ := List.pairwise_cons.mp hm
    have hne : d.1 ≠ a := h d List.mem_cons_self
    unfold Memory.insert
    split
    · next hlt =>
      refine List.pairwise_cons.mpr ⟨fun c hc => ?_, hm⟩
      rcases List.mem_cons.mp hc with rfl | hc
      · exact hlt
      · exact lt_trans hlt (hd c hc)
    · refine List.pairwise_cons.mpr ⟨fun c hc => ?_, ih (fun c hc => h c (List.mem_cons_of_mem _ hc)) hp⟩
      rcases Memory.mem_insert hc with rfl | hc
      · simp only; omega
      · exact hd c hc

/-- Every write keeps the canonical form. -/
theorem Memory.write_wf {m : Memory} {a : Nat} (b : Byte) (ha : a < 128) (h : Memory.wf m) :
    Memory.wf (Memory.write m a b) := by
  have he : Memory.wf (m.erase a) :=
    ⟨h.1.filter _, fun c hc => h.2 c (Memory.mem_erase.mp hc).1⟩
  unfold Memory.write
  split
  · exact he
  · next hb =>
    refine ⟨Memory.insert_pairwise b (fun c hc => (Memory.mem_erase.mp hc).2) he.1, fun c hc => ?_⟩
    rcases Memory.mem_insert hc with rfl | hc
    · exact ⟨ha, hb⟩
    · exact he.2 c hc

/-- What one answered bus write does to the pins keeps the canonical form. -/
theorem memAfter_wf (s : State) (b : Byte) (landed : Bool) (h : Memory.wf s.mem) :
    Memory.wf (memAfter s b landed) := by
  unfold memAfter
  split
  · exact Memory.write_wf b s.addr.isLt h
  · exact h

/-- A bus write touches the pins of the configured device only. -/
theorem memAfter_other (s : State) (b : Byte) (landed : Bool) (a : Nat) (h : a ≠ s.addr.toNat) :
    Memory.read (memAfter s b landed) a = Memory.read s.mem a := by
  unfold memAfter
  split
  · exact Memory.read_write_other _ _ _ _ h
  · rfl

/-- A byte that has landed is on the pins. -/
theorem memAfter_landed (s : State) (b : Byte) : Memory.read (memAfter s b true) s.addr.toNat = b :=
  Memory.read_write_same _ _ _

/-- A byte that is not what its address reads as without an entry comes from an entry. -/
theorem Memory.mem_of_read {m : Memory} {a : Nat} (h : m.read a ≠ Memory.unlisted a) : (a, m.read a) ∈ m := by
  induction m with
  | nil => exact absurd rfl h
  | cons c m ih =>
    rw [Memory.read_cons] at h ⊢
    split
    · next hc => subst hc; exact List.mem_cons_self
    · next hc => exact List.mem_cons_of_mem _ (ih (by rwa [if_neg hc] at h))

/-- An entry of a rising list is what its address reads as. -/
theorem Memory.read_of_mem {m : Memory} {c : Host.Cell} (h : m.Pairwise (fun c d => c.1 < d.1)) (hc : c ∈ m) :
    m.read c.1 = c.2 := by
  induction m with
  | nil => simp at hc
  | cons d m ih =>
    obtain ⟨hd, hm⟩ := List.pairwise_cons.mp h
    rcases List.mem_cons.mp hc with rfl | hc
    · simp
    · simp [Nat.ne_of_lt (hd c hc), ih hm hc]

/-- Two canonical lists that read the same at every address are the same list: equal pins are equal data. -/
theorem Memory.ext_read {m m' : Memory} (h : m.wf) (h' : m'.wf) (hr : ∀ a, m.read a = m'.read a) : m = m' := by
  have sub : ∀ {l l' : Memory}, l.wf → (∀ a, l.read a = l'.read a) → ∀ c ∈ l, c ∈ l' := by
    intro l l' hl hr c hc
    have hread := Memory.read_of_mem hl.1 hc
    have hmem := Memory.mem_of_read (m := l') (a := c.1) (by rw [← hr, hread]; exact (hl.2 c hc).2)
    rwa [← hr, hread] at hmem
  have nodup : ∀ {l : Memory}, l.wf → l.Nodup := fun hl => hl.1.imp fun hlt heq => by simp [heq] at hlt
  refine List.Perm.eq_of_pairwise (le := fun c d => c.1 < d.1) (fun c d _ _ h1 h2 => absurd h1 (Nat.lt_asymm h2)) h.1 h'.1 ?_
  exact (List.perm_ext_iff_of_nodup (nodup h) (nodup h')).mpr fun c => ⟨sub h hr c, sub h' (fun a => (hr a).symm) c⟩

theorem reset_mem_wf : Memory.wf State.reset.mem := by simp [State.reset, Memory.wf]

end Sys2Proof.Machine
end

