-- ==== Sys2Proof/Laws/Operands.lean ====
section
/-! SUPPORT. The small lemmas of the operand forms: bits of placed values, of masks and of the composed byte, and the validity of
the default PinMap. -/

namespace Sys2Proof.Machine

/-- The bit at `q` of a value placed at `p`. -/
theorem bitAt_place (v : Bool) (p q : Position) : bitAt (place v p) q = (v && decide (q = p)) := by
  revert v p q; decide

theorem bitAt_or (a b : Byte) (p : Position) : bitAt (a ||| b) p = (bitAt a p || bitAt b p) := by simp [bitAt]

theorem bitAt_and (a b : Byte) (p : Position) : bitAt (a &&& b) p = (bitAt a p && bitAt b p) := by simp [bitAt]

theorem bitAt_not (a : Byte) (p : Position) : bitAt (~~~a) p = !(bitAt a p) := by
  have h : p.toNat < 8 := p.isLt
  simp [bitAt, h]

/-- A mask is the place of the value 1. -/
theorem mask_eq_place (pm : PinMap) (s : Signal) : mask pm s = place true (pos pm s) := by
  unfold mask place bit1
  generalize pos pm s = p
  revert p; decide

/-- Two bytes are equal when their bits agree at all eight positions. -/
theorem byte_ext {a b : Byte} (h : ∀ p : Position, bitAt a p = bitAt b p) : a = b := by
  apply BitVec.eq_of_getLsbD_eq
  intro i hi
  simpa [bitAt, Nat.mod_eq_of_lt hi] using h (BitVec.ofNat 3 i)

/-- The composed byte at any position: the OR over the signals that have that position (`30_encoding.md` R42). -/
theorem bitAt_compose (pm : PinMap) (v : Levels) (q : Position) :
    bitAt (compose pm v) q =
      Signal.all.any (fun s => level v s && decide (q = pos pm s)) := by
  simp [compose, bitAt_or, bitAt_place, Signal.all, level, pos, Bool.or_assoc]
  rfl

/-- In a valid PinMap two signals with one position are one signal (`10_state.md` R12). -/
theorem pos_inj {pm : PinMap} (h : pm.Valid) {s t : Signal} (hp : pos pm s = pos pm t) : s = t := by
  simp only [PinMap.Valid, PinMap.positions, List.nodup_cons, List.mem_cons, List.not_mem_nil, not_or] at h
  cases s <;> cases t <;> simp_all [pos]

/-- `DEFAULT_PINMAP` satisfies the invariant of `10_state.md` R13. -/
theorem defaultPinMap_valid : Config.defaultPinMap.Valid := by
  have h : Config.defaultPinMap.positions =
      (List.map (fun i : Fin 8 => (BitVec.ofFin (Config.defaultLayout i) : Position)) [0, 1, 2, 3, 4, 5, 6, 7]) := rfl
  rw [PinMap.Valid, h]
  refine List.Nodup.map (fun i j hij => ?_) (by decide)
  exact Config.defaultLayout.injective (by simpa using congrArg BitVec.toFin hij)

end Sys2Proof.Machine
end

