-- ==== Sys2Proof/Laws/Ops.lean ====
section
/-! SUPPORT. What each shared operation can do, said once: the bus write, the issue step, the latch-and-write shape, the pulse, the
construction, and the conditions under which a request is taken. -/

namespace Sys2Proof.Machine

/-! ### Answers and their parts -/

@[simp] theorem verdictOf_ok : verdictOf .ok = some .ok := rfl
@[simp] theorem verdictOf_err (x : TransportError) (l : Bool) : verdictOf (.err x l) = some (.err x) := rfl
@[simp] theorem verdictOf_silent : verdictOf .silent = none := rfl
@[simp] theorem landsOf_ok : landsOf .ok = true := rfl
@[simp] theorem landsOf_err (x : TransportError) (l : Bool) : landsOf (.err x l) = l := rfl
@[simp] theorem landsOf_silent : landsOf .silent = false := rfl
@[simp] theorem traceAfter_some (s : State) (b : Byte) (v : Verdict) :
    traceAfter s b (some v) = s.trace ++ [{ addr := s.addr, byte := b, result := v }] := rfl
@[simp] theorem traceAfter_none (s : State) (b : Byte) : traceAfter s b none = s.trace := rfl
@[simp] theorem memAfter_false (s : State) (b : Byte) : memAfter s b false = s.mem := rfl
@[simp] theorem outByte_busWrite (b : Byte) (s : State) (e : Bool) : outByte (busWrite b s) e = outByte s e := rfl
@[simp] theorem nextAnswer_busWrite (b : Byte) (s : State) : nextAnswer (busWrite b s) = nextAnswer (takeAnswer s) := rfl
@[simp] theorem nextAnswer_latch (l : Latch) (s : State) : nextAnswer { s with latch := l } = nextAnswer s := rfl

theorem nextAnswer_cons {s : State} {a : Answer} {as : List Answer} (h : s.answers = a :: as) : nextAnswer s = a := by
  simp [nextAnswer, h]

/-- A verdict comes from an answered question: success lands, a failure carries its error value. -/
theorem verdictOf_eq_ok {a : Answer} : verdictOf a = some .ok ↔ a = .ok := by cases a <;> simp [verdictOf]

theorem verdictOf_eq_none {a : Answer} : verdictOf a = none ↔ a = .silent := by cases a <;> simp [verdictOf]

theorem verdictOf_eq_err {a : Answer} {x : TransportError} :
    verdictOf a = some (.err x) ↔ ∃ landed, a = .err x landed := by cases a <;> simp [verdictOf]

/-- A bus write that returned `ok` leaves its byte on the pins. -/
theorem busWrite_ok_pins {s : State} {b : Byte} (h : nextAnswer s = .ok) : (busWrite b s).pins = b := by
  simp [State.pins, h, landsOf, memAfter_landed]

theorem busWrite_mem_wf (b : Byte) {s : State} (h : Memory.wf s.mem) : Memory.wf (busWrite b s).mem :=
  memAfter_wf s b _ h

theorem busWrite_mem_other (b : Byte) (s : State) (a : Nat) (h : a ≠ s.addr.toNat) :
    Memory.read (busWrite b s).mem a = Memory.read s.mem a := memAfter_other s b _ a h

/-- The issue step in `IDLE` is none. -/
@[simp] theorem issue_idle {s : State} (h : s.ph = .idle) : issue s = s := by simp [issue, h]

/-- Everything an issue step can do in a busy phase: one bus write, and one of three ways on. -/
theorem issue_cases {s : State} (h : s.ph ≠ .idle) :
    (nextAnswer s = .silent ∧ issue s = busWrite (outByte s (enableOf s.ph)) s) ∨
    (nextAnswer s = .ok ∧ s.ph = .pulseHi ∧ issue s = waitIn .pulseLo (busWrite (outByte s true) s)) ∨
    (nextAnswer s = .ok ∧ (s.ph = .write ∨ s.ph = .pulseLo) ∧ issue s = returnOk (busWrite (outByte s false) s)) ∨
    (∃ x l, nextAnswer s = .err x l ∧ issue s = raiseBusError x (busWrite (outByte s (enableOf s.ph)) s)) := by
  cases ha : nextAnswer s <;> cases hp : s.ph <;> simp_all [issue, verdictOf, afterWrite, enableOf]

/-- Everything the latch-and-write shape can do. -/
theorem latchAndWrite_cases (l : Latch) (s : State) :
    (nextAnswer s = .ok ∧
      latchAndWrite l s = returnOk (busWrite (outByte { s with latch := l } false) { s with latch := l })) ∨
    (∃ x landed, nextAnswer s = .err x landed ∧
      latchAndWrite l s = raiseBusError x (busWrite (outByte { s with latch := l } false) { s with latch := l })) ∨
    (nextAnswer s = .silent ∧
      latchAndWrite l s = waitIn .write (busWrite (outByte { s with latch := l } false) { s with latch := l })) := by
  have hn : nextAnswer { s with latch := l } = nextAnswer s := rfl
  cases ha : nextAnswer s <;> simp [latchAndWrite, hn, ha, verdictOf]

/-- The latch-and-write shape, answered: the whole next state. -/
theorem latchAndWrite_answered {l : Latch} {s : State} {v : Verdict} (hv : verdictOf (nextAnswer s) = some v) :
    latchAndWrite l s =
      { s with
        latch := l
        ph := .idle
        trace := s.trace ++ [{ addr := s.addr, byte := compose s.pm (l.levels false), result := v }]
        mem := memAfter s (compose s.pm (l.levels false)) (landsOf (nextAnswer s))
        responses := s.responses ++ [statusOf v]
        answers := s.answers.tail
        draws := s.draws + 1 } := by
  cases v <;>
    simp [latchAndWrite, hv, busWrite, returnOk, raiseBusError, respond, takeAnswer, statusOf, outByte, memAfter] <;> rfl

/-- Everything the second half of a pulse can do. -/
theorem pulseLow_cases (s : State) :
    (nextAnswer s = .ok ∧ pulseLow s = returnOk (busWrite (outByte s false) s)) ∨
    (∃ y landed, nextAnswer s = .err y landed ∧ pulseLow s = raiseBusError y (busWrite (outByte s false) s)) ∨
    (nextAnswer s = .silent ∧ pulseLow s = waitIn .pulseLo (busWrite (outByte s false) s)) := by
  cases ha : nextAnswer s <;> simp [pulseLow, ha, verdictOf]

/-- Everything the first half of a pulse can do. -/
theorem pulse_cases (s : State) :
    (nextAnswer s = .ok ∧ pulse s = pulseLow (busWrite (outByte s true) s)) ∨
    (∃ x landed, nextAnswer s = .err x landed ∧ pulse s = raiseBusError x (busWrite (outByte s true) s)) ∨
    (nextAnswer s = .silent ∧ pulse s = waitIn .pulseHi (busWrite (outByte s true) s)) := by
  cases ha : nextAnswer s <;> simp [pulse, ha, verdictOf]

/-- The pulse whose first write succeeds and whose second is answered: two writes and the second one's outcome. -/
theorem pulse_answered {s : State} {v : Verdict} (h1 : nextAnswer s = .ok)
    (h2 : verdictOf (nextAnswer (takeAnswer s)) = some v) :
    pulse s = respond (statusOf v) (busWrite (outByte s false) (busWrite (outByte s true) s)) := by
  have hp : pulse s = pulseLow (busWrite (outByte s true) s) := by simp [pulse, h1]
  rw [hp]
  cases v <;> simp [pulseLow, h2, statusOf, returnOk, raiseBusError]

/-- Everything construction can do. -/
theorem construct_cases (a : BusAddr) (m : PinMap) (s : State) :
    (m.Valid ∧ construct a m s = constructed a m s) ∨ (¬ m.Valid ∧ construct a m s = raiseConfigError s) := by
  by_cases h : m.Valid
  · exact .inl ⟨h, if_pos h⟩
  · exact .inr ⟨h, if_neg h⟩

/-- Everything that can become of a command. -/
theorem command_cases {i : Instr} {run : State → State} {s t : State} (h : command i run s = .next t) :
    (s.ph = .idle ∧ s.st = .ready ∧ t = run s) ∨ (s.ph = .idle ∧ s.st ≠ .ready ∧ t = s) ∨
    (s.ph ≠ .idle ∧ t = hold (encode i) s) := by
  unfold command at h
  split at h
  · next hp =>
    injection h with h
    by_cases hs : s.st = .ready
    · exact .inl ⟨hp, hs, by simpa [hs] using h.symm⟩
    · exact .inr (.inl ⟨hp, hs, by simpa [hs] using h.symm⟩)
  · next hp => injection h with h; exact .inr (.inr ⟨hp, h.symm⟩)

/-- An accepting block runs the command. -/
theorem command_accepts {i : Instr} {run : State → State} {s : State} (h : Accepts s) :
    command i run s = .next (run s) := by simp [command, h.1, h.2]

/-- What an accepted command is: the latch-and-write shape on its operand, or the pulse. -/
theorem exec_accepted {i : Instr} {s : State} (hi : i.IsCommand) (h : Accepts s) :
    (IsLatchWrite i ∧ exec i s = .next (latchAndWrite (applyOperand i s.latch) s)) ∨
    (i = .pulseEnable ∧ exec i s = .next (pulse s)) := by
  cases i with
  | setControl rs rw => exact .inl ⟨trivial, command_accepts h⟩
  | setDataNibble n => exact .inl ⟨trivial, command_accepts h⟩
  | pulseEnable => exact .inr ⟨rfl, command_accepts h⟩
  | setBacklight on => exact .inl ⟨trivial, command_accepts h⟩
  | configureDefault a => exact hi.elim
  | configureOverride a m => exact hi.elim

/-- A command word never spells a construction. -/
theorem decodeCommand_isCommand (w : CmdWord) : (decodeCommand w).IsCommand := by
  unfold decodeCommand
  split_ifs <;> trivial

/-- Construction that gives a next state was admitted in `IDLE`. -/
theorem configure_cases {run : State → State} {s t : State} (h : configure run s = .next t) :
    s.ph = .idle ∧ t = run s := by
  unfold configure at h
  split at h
  · next hp => injection h with h; exact ⟨hp, h.symm⟩
  · cases h

/-- Everything an operation can do: what each kind of it leads to. -/
theorem exec_cases {i : Instr} {s t : State} (h : exec i s = .next t) :
    (i.IsCommand ∧ s.ph ≠ .idle ∧ t = hold (encode i) s) ∨
    (i.IsCommand ∧ s.ph = .idle ∧ s.st ≠ .ready ∧ t = s) ∨
    (∃ l, i.IsCommand ∧ s.ph = .idle ∧ s.st = .ready ∧ t = latchAndWrite l s) ∨
    (i = .pulseEnable ∧ s.ph = .idle ∧ s.st = .ready ∧ t = pulse s) ∨
    (∃ a m, ¬ i.IsCommand ∧ s.ph = .idle ∧ m.Valid ∧ t = constructed a m s) ∨
    (¬ i.IsCommand ∧ s.ph = .idle ∧ t = raiseConfigError s) := by
  have hcfg : ∀ {a m}, ¬ i.IsCommand → configure (construct a m) s = .next t →
      (∃ a m, ¬ i.IsCommand ∧ s.ph = .idle ∧ m.Valid ∧ t = constructed a m s) ∨
      (¬ i.IsCommand ∧ s.ph = .idle ∧ t = raiseConfigError s) := by
    intro a m hi hc
    obtain ⟨hp, rfl⟩ := configure_cases hc
    rcases construct_cases a m s with ⟨hv, he⟩ | ⟨-, he⟩
    · exact .inl ⟨a, m, hi, hp, hv, he⟩
    · exact .inr ⟨hi, hp, he⟩
  cases i with
  | setControl rs rw =>
    rcases command_cases h with ⟨hp, hs, he⟩ | ⟨hp, hs, he⟩ | ⟨hp, he⟩
    · exact .inr (.inr (.inl ⟨_, trivial, hp, hs, he⟩))
    · exact .inr (.inl ⟨trivial, hp, hs, he⟩)
    · exact .inl ⟨trivial, hp, he⟩
  | setDataNibble n =>
    rcases command_cases h with ⟨hp, hs, he⟩ | ⟨hp, hs, he⟩ | ⟨hp, he⟩
    · exact .inr (.inr (.inl ⟨_, trivial, hp, hs, he⟩))
    · exact .inr (.inl ⟨trivial, hp, hs, he⟩)
    · exact .inl ⟨trivial, hp, he⟩
  | pulseEnable =>
    rcases command_cases h with ⟨hp, hs, he⟩ | ⟨hp, hs, he⟩ | ⟨hp, he⟩
    · exact .inr (.inr (.inr (.inl ⟨rfl, hp, hs, he⟩)))
    · exact .inr (.inl ⟨trivial, hp, hs, he⟩)
    · exact .inl ⟨trivial, hp, he⟩
  | setBacklight on =>
    rcases command_cases h with ⟨hp, hs, he⟩ | ⟨hp, hs, he⟩ | ⟨hp, he⟩
    · exact .inr (.inr (.inl ⟨_, trivial, hp, hs, he⟩))
    · exact .inr (.inl ⟨trivial, hp, hs, he⟩)
    · exact .inl ⟨trivial, hp, he⟩
  | configureDefault a => exact .inr (.inr (.inr (.inr (hcfg id h))))
  | configureOverride a m => exact .inr (.inr (.inr (.inr (hcfg id h))))

@[simp] theorem execAll_nil (s : State) : execAll [] s = .next s := rfl

/-- A list of operations whose first gives a next state goes on from there. -/
theorem execAll_cons {i : Instr} {is : List Instr} {s t : State} (h : exec i s = .next t) :
    execAll (i :: is) s = execAll is t := by simp [execAll, h]

/-- Everything a step of the machine can do. -/
theorem step_cases {s t : State} (h : step s = .next t) :
    (s.ph ≠ .idle ∧ t = issue s) ∨ (s.ph = .idle ∧ s.requests = [] ∧ t = s) ∨
    (∃ r rest, s.ph = .idle ∧ s.requests = r :: rest ∧ exec (decode r) { s with requests := rest } = .next t) := by
  unfold step stepOnce at h
  split at h
  · next hp =>
    unfold takeRequest at h
    split at h
    · next hr => injection h with h; exact .inr (.inl ⟨hp, hr, h.symm⟩)
    · next r rest hr => exact .inr (.inr ⟨r, rest, hp, hr, h⟩)
  · next hp => injection h with h; exact .inl ⟨hp, h.symm⟩

end Sys2Proof.Machine
end

