-- ==== Sys2Proof/Laws/PerInstr.lean ====
section
/-! SUPPORT. Statements made once per operation. The family `TableRow`: the word the encoder gives an operation lies in that
operation's row of the opcode table. -/

namespace Sys2Proof.Laws.TableRow

/-- The encoded word, under the row's mask, is the row's match (`opcode_table.json`). -/
def Statement (i : Instr) : Prop := (encode i).bits &&& (tableRow i).2 = (tableRow i).1

theorem setControl (rs rw : Bool) : Statement (.setControl rs rw) := by
  revert rs rw; unfold Statement; decide

theorem setDataNibble (n : Nibble) : Statement (.setDataNibble n) := by
  revert n; unfold Statement; decide

theorem pulseEnable : Statement .pulseEnable := by
  unfold Statement; decide

theorem setBacklight (on : Bool) : Statement (.setBacklight on) := by
  revert on; unfold Statement; decide

/-- The selector bit decides the row of a configuration word. -/
theorem selector_mask (w : BitVec 32) : w &&& 0x80000000#32 = if w.getLsbD 31 then 0x80000000#32 else 0#32 := by
  apply BitVec.eq_of_getLsbD_eq
  intro j hj
  cases h : w.getLsbD 31 <;> interval_cases j <;> simp_all

/-- Bit 31 of a configuration word is its selector field (`30_encoding.md` R47). -/
theorem selector_of_append (u : BitVec 1) (addr : BusAddr) (y : BitVec 24) :
    BitVec.getLsbD (w := 32) (u ++ addr ++ y) 31 = u.getLsbD 0 := by
  refine (BitVec.getLsbD_append (x := u ++ addr) (y := y)).trans ?_
  refine (if_neg (by decide)).trans ?_
  revert u addr; decide

theorem configureDefault (addr : BusAddr) : Statement (.configureDefault addr) :=
  (selector_mask _).trans (if_pos (selector_of_append 1#1 addr _))

theorem configureOverride (addr : BusAddr) (pm : PinMap) : Statement (.configureOverride addr pm) :=
  (selector_mask _).trans (if_neg fun h => absurd ((selector_of_append 0#1 addr _).symm.trans h) (by decide))

end Sys2Proof.Laws.TableRow
end

