-- ==== Sys2Proof/Tests/Slice0.lean ====
section
/-! SUPPORT. Small tests: what the checks of WellFormed refuse, words written out from the spec's encodings, single operations with
the results of the spec's own vectors (`95_test_vectors.md`), and a witness for every statement that has hypotheses. -/

namespace Sys2Proof.Tests

open Sys2Proof.Machine

/-! ### Helpers -/

/-- The PinMap `ALT` of the spec's vectors. -/
def alt : PinMap := { rs := 4, rw := 5, e := 6, d4 := 0, d5 := 1, d6 := 2, d7 := 3, bl := 7 }

/-- The PinMap `SCAT` of the spec's vectors. -/
def scat : PinMap := { rs := 7, rw := 2, e := 5, d4 := 6, d5 := 0, d6 := 3, d7 := 1, bl := 4 }

/-- A PinMap with position 6 given twice (vector V5). -/
def doubled : PinMap := { rs := 0, rw := 1, e := 2, d4 := 4, d5 := 5, d6 := 6, d7 := 6, bl := 3 }

/-- An accepting block at address `0x27` under the suggested layout, with a latch and the transport's next answers. -/
def block (l : Latch) (as : List Answer) : State where
  addr      := 0x27#7
  pm        := suggestedPinMap
  st        := .ready
  latch     := l
  ph        := .idle
  trace     := []
  mem       := []
  responses := []
  requests  := []
  answers   := as
  draws     := 0

/-- The latch `rs=0, rw=0, nib=0, bl=1` of the vectors. -/
def l0 : Latch := { rs := false, rw := false, nib := 0#4, bl := true }

/-- The latch `rs=1, rw=0, nib=0b1010, bl=1` of the vectors. -/
def lA : Latch := { rs := true, rw := false, nib := 0b1010#4, bl := true }

/-- Some transport error. -/
def x : TransportError := { code := 5 }

/-- The bytes of a trace, with whether each write succeeded. -/
def bytes (r : Result) : List (Byte × Bool) :=
  match r with
  | .next t => t.trace.map fun e => (e.byte, decide (e.result = .ok))
  | .fault _ => []
  | .refused _ => []

/-- The last state of a result, or the given one. -/
def after (d : State) (r : Result) : State :=
  match r with
  | .next t => t
  | .fault _ => d
  | .refused _ => d

/-- The same block with an operation in flight. -/
def busy (p : Phase) (as : List Answer) : State := { block lA as with ph := p }

/-- The same block before or after a failed construction. -/
def inert (l : Lifecycle) : State := { block l0 [] with st := l }

/-! ### WellFormed -/

theorem test_wf_override_duplicate : ¬ (Instr.configureOverride 0x27#7 doubled).WellFormed := by decide
theorem test_wf_override_scattered : (Instr.configureOverride 0x20#7 scat).WellFormed := by decide
theorem test_wf_call_nibble : (Call.setDataNibble 16).wellFormed = false := by decide
theorem test_wf_call_address : (Call.configure 128 .default).wellFormed = false := by decide
theorem test_wf_call_position : (Call.configure 0x27 (.override 8 1 2 4 5 6 7 3)).wellFormed = false := by decide
theorem test_wf_call_distinct : (Call.configure 0x27 (.override 0 1 2 4 5 6 6 3)).wellFormed = false := by decide
theorem test_wf_call_good : (Call.configure 0x27 (.override 0 1 2 4 5 6 7 3)).wellFormed = true := by decide

/-! ### Decoding: words from the encodings of the spec, bit by bit -/

/-- V51: opcode 00, `rs` in bit 0. -/
theorem test_decode_set_control : decodeTableWord 8 0b000001 = some (.setControl true false) := by decide
/-- V39e: `cmd[3:2]` ignored. -/
theorem test_decode_set_control_ignored : decodeTableWord 6 0b001101 = some (.setControl true false) := by decide
/-- V52: `rw` in bit 1. -/
theorem test_decode_set_control_rw : decodeTableWord 8 0b000010 = some (.setControl false true) := by decide
/-- V56. -/
theorem test_decode_set_data_nibble : decodeTableWord 8 0b011010 = some (.setDataNibble 0b1010#4) := by decide
/-- V59: the argument ignored. -/
theorem test_decode_pulse_enable : decodeTableWord 8 0b101010 = some .pulseEnable := by decide
/-- V62: `cmd[3:1]` ignored, `on` in bit 0. -/
theorem test_decode_set_backlight : decodeTableWord 8 0b111110 = some (.setBacklight false) := by decide
/-- V63. -/
theorem test_decode_set_backlight_on : decodeTableWord 8 0b111111 = some (.setBacklight true) := by decide
/-- V8: bit 31 set, address `0x27`, the low 24 bits ignored. -/
theorem test_decode_configure_default : decodeTableWord 32 0xA7FFFFFF = some (.configureDefault 0x27#7) := by decide
/-- V3, field by field: BL 111, D7 011, D6 010, D5 001, D4 000, E 110, RW 101, RS 100. -/
theorem test_decode_configure_override :
    decodeTableWord 32 0b00111111111011010001000110101100 = some (.configureOverride 0x3F#7 alt) := by decide
/-- V4. -/
theorem test_decode_configure_scattered : decodeTableWord 32 0x20858D57 = some (.configureOverride 0x20#7 scat) := by decide
theorem test_encode_scattered : encode (.configureOverride 0x20#7 scat) = .configure 0x20858D57#32 := by decide
theorem test_encode_backlight : encode (.setBacklight true) = .command 0b110001#6 := by decide
theorem test_reject_command : requestOfTableWord 8 64 = .error .commandTooWide := by decide
theorem test_reject_config : requestOfTableWord 32 4294967296 = .error .configTooWide := by decide
theorem test_reject_length : requestOfTableWord 16 0 = .error .noSuchFormat := by decide

/-! ### The output byte -/

/-- V12 under the three PinMaps. -/
theorem test_compose_worked :
    compose suggestedPinMap (lA.levels false) = 0xA9#8 ∧ compose alt (lA.levels false) = 0x9A#8 ∧
      compose scat (lA.levels false) = 0x93#8 := by decide
/-- V15 and V18: the first and the last nibble bit alone, under `SCAT`. -/
theorem test_compose_nibble_lines :
    compose scat { rs := false, rw := false, nib := 0b0001#4, bl := false, e := false } = 0x40#8 ∧
      compose scat { rs := false, rw := false, nib := 0b1000#4, bl := false, e := false } = 0x02#8 := by decide
/-- The corner case after V25: `0x93` decomposed under `SCAT`. -/
theorem test_decompose_scattered : decompose scat 0x93#8 = lA.levels false := by decide

/-! ### Operations -/

/-- V31. -/
theorem test_set_control : bytes (exec (.setControl true true) (block l0 [.ok])) = [(0x0B#8, true)] := by decide
/-- V39: a failed write keeps the new latch. -/
theorem test_set_control_failed :
    after (inert .ready) (exec (.setControl false true) (block { l0 with nib := 0b1001#4 } [.err x true])) =
      { block { l0 with nib := 0b1001#4, rw := true } [] with
        trace := [{ addr := 0x27#7, byte := 0x9A#8, result := .err x }]
        mem := Memory.write [] 0x27 0x9A#8, responses := [.busError x], draws := 1 } := rfl
/-- V37: the backlight stays off. -/
theorem test_set_data_nibble :
    bytes (exec (.setDataNibble 0b1001#4) (block { l0 with bl := false } [.ok])) = [(0x90#8, true)] := by decide
/-- V35: all data lines lowered. -/
theorem test_set_data_nibble_lowers :
    bytes (exec (.setDataNibble 0#4) (block { l0 with nib := 0b1111#4 } [.ok])) = [(0x08#8, true)] := by decide
/-- V36. -/
theorem test_set_backlight_off : bytes (exec (.setBacklight false) (block l0 [.ok])) = [(0x00#8, true)] := by decide
/-- V38. -/
theorem test_set_backlight_on :
    bytes (exec (.setBacklight true) (block { l0 with nib := 0b1001#4, bl := false } [.ok])) = [(0x98#8, true)] := by decide
/-- V40 and V41. -/
theorem test_pulse_enable :
    bytes (exec .pulseEnable (block lA [.ok, .ok])) = [(0xAD#8, true), (0xA9#8, true)] ∧
      bytes (exec .pulseEnable (block lA [.err x false, .ok])) = [(0xAD#8, false)] := by decide
/-- V42: the second write fails, its error is answered, the pins may keep the enable line high. -/
theorem test_pulse_enable_second_fails :
    (after (inert .ready) (exec .pulseEnable (block lA [.ok, .err x false]))).responses = [.busError x] ∧
      (after (inert .ready) (exec .pulseEnable (block lA [.ok, .err x false]))).pins = 0xAD#8 :=
  ⟨by decide, Memory.read_write_same [] 0x27 0xAD#8⟩
/-- V1: `CONFIGURE_DEFAULT` at `0x27`; the backlight is on, nothing is written. -/
theorem test_configure_default (t : State) (h : exec (.configureDefault 0x27#7) State.powerOn = .next t) :
    t.addr = 0x27#7 ∧ t.st = .ready ∧ t.latch.bl = true ∧ t.trace = [] ∧ t.pm = Config.defaultPinMap := by
  have h' : configure (construct 0x27#7 Config.defaultPinMap) State.powerOn = .next t := h
  obtain ⟨-, rfl⟩ := configure_cases h'
  simp [construct, defaultPinMap_valid, Latch.reset, Config.resetBl]
/-- V4. -/
theorem test_configure_override :
    (after (inert .unconfigured) (exec (.configureOverride 0x20#7 scat) (inert .unconfigured))).pm = scat ∧
      (after (inert .unconfigured) (exec (.configureOverride 0x20#7 scat) (inert .unconfigured))).st = .ready := by decide
/-- V5. -/
theorem test_configure_duplicate :
    after (inert .unconfigured) (exec (.configureOverride 0x27#7 doubled) (inert .unconfigured)) =
      { inert .configError with responses := [.configError] } := by decide
/-- P4: a command after a failed construction is not accepted. -/
theorem test_not_accepted :
    after (block lA []) (step { inert .configError with requests := [.command 0b110001#6] }) = inert .configError := by decide

/-- `10_state.md` section 9, `20_memory.md` R32: the pins are unknown at reset, and a failed write that did not land keeps them. -/
theorem test_pins_before_first_write :
    State.reset.pins = Config.initialPins Config.addr.toNat ∧
      (after (inert .ready) (exec (.setBacklight false) (block l0 [.err x false]))).pins = Config.initialPins 0x27 :=
  ⟨rfl, rfl⟩

/-! ### The step -/

theorem test_step_runs_word :
    bytes (step ((block l0 [.ok]).withFetchWord 8 0b000001)) = [(0x09#8, true)] := by decide
theorem test_step_waits_then_ends :
    (after (inert .ready) (step { block l0 [.silent, .ok] with requests := [.command 0b000001#6] })).ph = .write ∧
      bytes (step (after (inert .ready) (step { block l0 [.silent, .ok] with requests := [.command 0b000001#6] }))) =
        [(0x09#8, true)] := by decide
theorem test_first_step_after_reset :
    step (State.reset.withFetchWord 32 0x3FED11AC) = exec (.configureOverride 0x3F#7 alt) State.reset := rfl
theorem test_send_byte : sendByte true 0x48#8 = sendNibble true false 0b0100#4 ++ sendNibble true false 0b1000#4 := by decide

/-! ### Witnesses: every statement's hypotheses can be met, clause by clause -/

theorem witness_WordsWithoutIgnoredBits :
    (0x3FED11AC#32 : CfgWord).getLsbD 31 = false ∧ (0b011010#6 : CmdWord).extractLsb' 4 2 = 0b01#2 := by decide
theorem witness_IgnoredBitsDenoteNothing :
    (0xA7000000#32 : CfgWord).getLsbD 31 = true ∧ (0xA7FFFFFF#32 : CfgWord).getLsbD 31 = true ∧
      cmdOpcode 0b001101#6 = 0b00#2 ∧ cmdOpcode 0b011111#6 = 0b01#2 ∧ cmdOpcode 0b111111#6 = 0b11#2 := by decide
theorem witness_ComposeBitByBit : suggestedPinMap.Valid ∧ alt.Valid ∧ scat.Valid := by decide
theorem witness_ComposeDecomposeInverse : scat.Valid := by decide
theorem witness_MasksPartitionTheByte : alt.Valid ∧ Signal.rs ≠ Signal.bl := by decide
theorem witness_ValidityTestsAgree : Signal.d6 ≠ Signal.d7 ∧ pos doubled .d6 = pos doubled .d7 ∧ ¬ doubled.Valid := by decide
theorem witness_IncrementalEqualsRecomputed :
    scat.Valid ∧ IsLatchWrite (.setControl false false) ∧ IsLatchWrite (.setDataNibble 0b1111#4) ∧
      IsLatchWrite (.setBacklight false) := by decide
theorem witness_BusWriteAppendsOneEvent :
    verdictOf (nextAnswer (block l0 [.ok])) = some .ok ∧
      verdictOf (nextAnswer (block l0 [.err x true])) = some (.err x) ∧ nextAnswer (block l0 [.silent]) = .silent := by decide
theorem witness_SetControlResult :
    Accepts (block l0 [.ok]) ∧ verdictOf (nextAnswer (block l0 [.ok])) = some .ok ∧
      (0b001111#6 : CmdWord).extractLsb' 4 2 = 0b00#2 := by decide
theorem witness_SetDataNibbleResult :
    Accepts (block l0 [.err x false]) ∧ verdictOf (nextAnswer (block l0 [.err x false])) = some (.err x) ∧
      (0b011111#6 : CmdWord).extractLsb' 4 2 = 0b01#2 := by decide
theorem witness_SetBacklightResult :
    Accepts (block lA [.ok]) ∧ verdictOf (nextAnswer (block lA [.ok])) = some .ok ∧
      (0b111111#6 : CmdWord).extractLsb' 4 2 = 0b11#2 := by decide
theorem witness_PulseEnableResult :
    Accepts (block lA [.ok, .err x true]) ∧ nextAnswer (block lA [.ok, .err x true]) = .ok ∧
      verdictOf (nextAnswer (takeAnswer (block lA [.ok, .err x true]))) = some (.err x) ∧
      (0b101111#6 : CmdWord).extractLsb' 4 2 = 0b10#2 := by decide
theorem witness_PulseBytesDifferInEnableOnly : suggestedPinMap.Valid := by decide
theorem witness_FailedFirstPulseWriteAborts :
    Accepts (block lA [.err x true]) ∧ nextAnswer (block lA [.err x true]) = .err x true := by decide
theorem witness_ConfigureDefaultResult :
    (block lA []).ph = .idle ∧ (0xA7000000#32 : CfgWord).getLsbD 31 = true := by decide
theorem witness_ConfigureOverrideResult :
    (inert .configError).ph = .idle ∧ alt.Valid ∧ (0x7F053977#32 : CfgWord).getLsbD 31 = false := by decide
theorem witness_DuplicatePositionsFailConstruction_fails : (inert .unconfigured).ph = .idle ∧ ¬ doubled.Valid := by decide
theorem witness_DuplicatePositionsFailConstruction_only :
    ∃ t, exec (.configureOverride 0x27#7 doubled) (inert .unconfigured) = .next t ∧
      t.responses = (inert .unconfigured).responses ++ [.configError] := ⟨_, rfl, by decide⟩
theorem witness_DuplicatePositionsFailConstruction_inert :
    (inert .configError).st = .configError ∧ (inert .configError).ph = .idle ∧
      (Instr.setBacklight true).IsCommand := by decide
theorem witness_DuplicatePositionsFailConstruction_again :
    ∃ t, step { inert .configError with requests := [.configure 0x277F5888#32] } = .next t ∧ t.st ≠ .configError ∧
      suggestedPinMap.Valid := ⟨_, rfl, by decide, by decide⟩
theorem witness_RepeatedOperandStillWrites :
    IsLatchWrite (.setControl true false) ∧ applyOperand (.setControl true false) lA = lA ∧ Accepts (block lA [.ok]) ∧
      verdictOf (nextAnswer (block lA [.ok])) = some .ok := by decide
theorem witness_NoRollbackAfterFailedWrite :
    IsLatchWrite (.setDataNibble 0b0001#4) ∧ Accepts (block lA [.err x false, .ok]) ∧
      verdictOf (nextAnswer (block lA [.err x false, .ok])) = some (.err x) ∧ (Instr.setBacklight true).IsCommand ∧
      ∃ u, exec (.setBacklight true)
        (after (inert .ready) (exec (.setDataNibble 0b0001#4) (block lA [.err x false, .ok]))) = .next u :=
  ⟨by decide, by decide, by decide, by decide, _, rfl⟩
theorem witness_StateAfterBusError :
    Instr.pulseEnable.IsCommand ∧ Accepts (block lA [.ok, .err x false]) ∧
      ∃ t, exec .pulseEnable (block lA [.ok, .err x false]) = .next t ∧
        t.responses = (block lA [.ok, .err x false]).responses ++ [.busError x] :=
  ⟨by decide, by decide, _, rfl, by decide⟩
theorem witness_StateAfterBusError_single :
    (Instr.setControl true true).IsCommand ∧ Accepts (block lA [.err x true]) ∧
      ∃ t, exec (.setControl true true) (block lA [.err x true]) = .next t ∧
        t.responses = (block lA [.err x true]).responses ++ [.busError x] :=
  ⟨by decide, by decide, _, rfl, by decide⟩
theorem witness_BusErrorExactlyOnFailedWrite :
    (Instr.setBacklight false).IsCommand ∧ Accepts (block lA [.err x true, .ok]) ∧
      2 ≤ (block lA [.err x true, .ok]).answers.length ∧
      ∃ t, exec (.setBacklight false) (block lA [.err x true, .ok]) = .next t :=
  ⟨by decide, by decide, by decide, _, rfl⟩
theorem witness_ResponseTellsAllWritesOk :
    Instr.pulseEnable.IsCommand ∧ Accepts (block lA [.ok, .ok]) ∧
      (∃ t, exec .pulseEnable (block lA [.ok, .ok]) = .next t ∧ t.ph = .idle) ∧
      ∃ t, exec .pulseEnable (block lA [.ok, .silent]) = .next t ∧ t.ph ≠ .idle :=
  ⟨by decide, by decide, ⟨_, rfl, by decide⟩, _, rfl, by decide⟩
theorem witness_SuccessBringsPinsToLatch :
    (Instr.setDataNibble 0b0110#4).IsCommand ∧ Accepts (block lA [.ok]) ∧
      ∃ t, exec (.setDataNibble 0b0110#4) (block lA [.ok]) = .next t ∧
        t.responses = (block lA [.ok]).responses ++ [.ok] :=
  ⟨by decide, by decide, _, rfl, by decide⟩
theorem witness_EnableHighOnlyInFirstPulseByte :
    Instr.pulseEnable.IsCommand ∧ Accepts (block lA [.ok, .ok]) ∧ (block lA [.ok, .ok]).pm.Valid ∧
      ∃ t, exec .pulseEnable (block lA [.ok, .ok]) = .next t ∧
        ({ addr := 0x27#7, byte := 0xAD#8, result := .ok } : BusEvent) ∈ newEvents (block lA [.ok, .ok]) t ∧
        bitAt 0xAD#8 suggestedPinMap.e = true :=
  ⟨by decide, by decide, by decide, _, rfl, by decide, by decide⟩
theorem witness_TwoPulsesAreFourWrites :
    Accepts (block l0 [.ok, .ok, .ok, .ok]) ∧ AllOk 4 (block l0 [.ok, .ok, .ok, .ok]) := by decide
theorem witness_CommandsNeedReady :
    (Instr.setControl true true).IsCommand ∧ (inert .unconfigured).ph = .idle ∧ (inert .unconfigured).st ≠ .ready ∧
      (inert .configError).st ≠ .ready := by decide
theorem witness_BusyBlockHoldsCommand :
    Instr.pulseEnable.IsCommand ∧ (busy .write [.ok]).ph ≠ .idle ∧ (busy .pulseHi [.ok]).ph ≠ .idle ∧
      (busy .pulseLo [.silent]).ph ≠ .idle := by decide
theorem witness_ResetInFlightIsRefused :
    ¬ (Instr.configureDefault 0x27#7).IsCommand ∧ ¬ (Instr.configureOverride 0x27#7 alt).IsCommand ∧
      (busy .pulseLo []).ph ≠ .idle := by decide
theorem witness_SilentTransportMakesTheBlockWait :
    IsLatchWrite (.setBacklight true) ∧ Accepts (block lA [.silent]) ∧ nextAnswer (block lA [.silent]) = .silent ∧
      Accepts (block lA [.ok, .silent]) ∧ nextAnswer (block lA [.ok, .silent]) = .ok ∧
      nextAnswer (takeAnswer (block lA [.ok, .silent])) = .silent ∧
      (busy .pulseHi [.silent]).ph ≠ .idle ∧ nextAnswer (busy .pulseHi [.silent]) = .silent := by decide
/-- The boundary values of the ranges: 15 and 16 for a nibble, 127 and 128 for an address, 7 and 8 for a position. -/
theorem witness_CallsOutsideTheirTypes :
    (execCall (.setDataNibble 15) (block l0 [.ok]) = exec (.setDataNibble 0b1111#4) (block l0 [.ok]) ∧
      execCall (.setDataNibble 16) (block l0 [.ok]) = .refused .operandOutOfType) ∧
    (execCall (.configure 127 .default) (block l0 []) = exec (.configureDefault 0x7F#7) (block l0 []) ∧
      execCall (.configure 128 .default) (block l0 []) = .refused .operandOutOfType) ∧
    (execCall (.configure 127 (.override 0 1 2 4 5 6 7 3)) (inert .unconfigured) =
        exec (.configureOverride 0x7F#7 suggestedPinMap) (inert .unconfigured) ∧
      after (inert .ready) (execCall (.configure 127 (.override 0 1 2 4 5 6 8 3)) (inert .unconfigured)) =
        { inert .configError with responses := [.configError] } ∧
      execCall (.configure 128 (.override 0 1 2 4 5 6 8 3)) (inert .unconfigured) = .refused .operandOutOfType ∧
      execCall (.configure 127 (.override 0 1 2 4 5 6 8 3)) (busy .write []) = .refused .resetInFlight) ∧
    (block l0 []).ph = .idle ∧ (busy .write []).ph ≠ .idle :=
  ⟨⟨rfl, rfl⟩, ⟨rfl, rfl⟩, ⟨rfl, by decide, rfl, rfl⟩, by decide⟩
theorem witness_StepRunsThePresentedOperation :
    ({ block l0 [.ok] with requests := [.command 0b100000#6] } : State).ph = .idle ∧
      ({ block l0 [.ok] with requests := [.command 0b100000#6] } : State).requests = .command 0b100000#6 :: [] := by decide
theorem witness_PlacedWordIsRun : decodeTableWord 8 0b110001 = some (.setBacklight true) := by decide
theorem witness_IdleStepChangesNothing : (block l0 []).ph = .idle ∧ (block l0 []).requests = [] := by decide
theorem witness_SequencerIssueSteps :
    (busy .write [.ok]).ph = .write ∧ verdictOf (nextAnswer (busy .write [.ok])) = some .ok ∧
      (busy .pulseLo [.err x true]).ph = .pulseLo ∧ verdictOf (nextAnswer (busy .pulseLo [.err x true])) = some (.err x) ∧
      (busy .pulseHi [.ok]).ph = .pulseHi ∧ nextAnswer (busy .pulseHi [.ok]) = .ok ∧
      nextAnswer (busy .pulseHi [.err x false]) = .err x false := by decide
theorem witness_FrameOfRunTimeOperations :
    (Instr.setControl true true).IsCommand ∧ (∃ t, exec (.setControl true true) (block l0 [.ok]) = .next t) ∧
      (block l0 [.ok]).ph = .idle ∧ (0x20 : Nat) ≠ (block l0 [.ok]).addr.toNat :=
  ⟨by decide, ⟨_, rfl⟩, by decide, by decide⟩
theorem witness_LatchFieldsEachOperationKeeps :
    (∃ t, exec (.setControl true true) (block l0 [.ok]) = .next t) ∧
      (∃ t, exec (.setDataNibble 0b1111#4) (block l0 [.ok]) = .next t) ∧
      (∃ t, exec (.setBacklight false) (block l0 [.ok]) = .next t) ∧
      ∃ t, exec .pulseEnable (block l0 [.ok, .ok]) = .next t :=
  ⟨⟨_, rfl⟩, ⟨_, rfl⟩, ⟨_, rfl⟩, ⟨_, rfl⟩⟩
theorem witness_FrameOfConstruction :
    ¬ (Instr.configureOverride 0x27#7 doubled).IsCommand ∧
      ∃ t, exec (.configureOverride 0x27#7 doubled) (block l0 []) = .next t ∧ t.st = .configError :=
  ⟨by decide, _, rfl, by decide⟩
theorem witness_ConfigurationIsImmutable :
    (∃ t, exec (.setControl true true) (block l0 [.ok]) = .next t) ∧
      ∃ t, step { block l0 [] with requests := [.configure 0x20858D57#32] } = .next t ∧ t.pm ≠ (block l0 []).pm :=
  ⟨⟨_, rfl⟩, _, rfl, by decide⟩
theorem witness_TraceOnlyGrows :
    (∃ t, step { block lA [.ok, .ok] with requests := [.command 0b100000#6] } = .next t ∧ t.trace.length = 2) ∧
      ∃ t, step { block l0 [] with requests := [.configure 0x20858D57#32] } = .next t ∧ t.trace = [] :=
  ⟨⟨_, rfl, by decide⟩, _, rfl, by decide⟩

/-- A block in the middle of a pulse: the enable-high byte is on the pins and last in the trace. -/
def midPulse : State :=
  { busy .pulseLo [.ok] with
    trace := [{ addr := 0x27#7, byte := 0xAD#8, result := .ok }], mem := Memory.write [] 0x27 0xAD#8 }

theorem witness_StepKeepsMemoryCanonical : Memory.wf midPulse.mem ∧ ∃ t, step midPulse = .next t :=
  ⟨Memory.write_wf _ (by decide) (by simp [Memory.wf]), _, rfl⟩
theorem witness_StepKeepsConfigurationLegal : ConfigLegal midPulse ∧ ∃ t, step midPulse = .next t :=
  ⟨by decide, _, rfl⟩
theorem witness_StepKeepsPinsOnLastByte :
    TraceAddressed midPulse ∧ PinsHoldLast midPulse ∧ ∃ t, step midPulse = .next t := by
  refine ⟨by decide, ?_, _, rfl⟩
  intro e he _
  simp only [midPulse, List.getLast?_singleton, Option.some.injEq] at he
  subst he
  exact Memory.read_write_same [] 0x27 0xAD#8
theorem witness_StepKeepsStrobeShape : ConfigLegal midPulse ∧ StrobeShape midPulse ∧ ∃ t, step midPulse = .next t := by
  refine ⟨by decide, ⟨by simp [midPulse], ?_⟩, _, rfl⟩
  intro e he _
  simp only [midPulse, List.getLast?_singleton, Option.some.injEq] at he
  subst he
  decide
theorem witness_BigStepAgreesWithSequencer :
    Instr.pulseEnable.IsCommand ∧ Accepts (block lA [.ok, .err x true]) ∧ Answering 2 (block lA [.ok, .err x true]) := by
  decide
theorem witness_WaitingOperationEndsTheSame :
    (Instr.setControl true false).IsCommand ∧ Accepts (block l0 [.ok, .ok]) ∧ Answering 2 (block l0 [.ok, .ok]) ∧
      Accepts (block lA [.ok, .err x true]) ∧ Answering 2 (block lA [.ok, .err x true]) ∧
      nextAnswer (block lA [.ok, .err x true]) = .ok := by decide
theorem witness_SignalIndependence :
    (∀ i ∈ ([.setControl true false, .setBacklight false] : List Instr), i.IsCommand) ∧ Instr.pulseEnable.IsCommand ∧
      Accepts (block l0 [.ok, .err x true, .ok, .ok, .ok, .ok]) ∧ (block l0 []).pm.Valid ∧
      Answering 6 (block l0 [.ok, .err x true, .ok, .ok, .ok, .ok]) :=
  ⟨by simp [Instr.IsCommand], by decide, by decide, by decide, by decide⟩
theorem witness_FirstLatchValuesAreForgotten :
    (∀ i ∈ ([.setControl true false, .setDataNibble 0b0011#4, .setBacklight false] : List Instr), i.IsCommand) ∧
      Instr.pulseEnable.IsCommand ∧ Accepts (block l0 [.ok, .ok, .ok, .ok, .ok, .ok, .ok, .ok]) ∧
      Answering 8 (block l0 [.ok, .ok, .ok, .ok, .ok, .ok, .ok, .ok]) ∧
      (lastControl [.setControl true false, .setDataNibble 0b0011#4, .setBacklight false]).isSome = true ∧
      (lastNibble [.setControl true false, .setDataNibble 0b0011#4, .setBacklight false]).isSome = true ∧
      (lastBacklight [.setControl true false, .setDataNibble 0b0011#4, .setBacklight false]).isSome = true :=
  ⟨by simp [Instr.IsCommand], by decide, by decide, by decide, by decide, by decide, by decide⟩
theorem witness_SendNibbleIsFourWrites :
    Accepts (block l0 [.ok, .ok, .ok, .ok]) ∧ AllOk 4 (block l0 [.ok, .ok, .ok, .ok]) := by decide

end Sys2Proof.Tests
end

/-! PROOFS. What a run of bus writes and responses leaves of the state, the position each signal has of its own, and the four
statements about the state that rest on them. -/

namespace Sys2Proof.Machine

/-! ### The frame of bus writes and responses -/

/-- `t` differs from `s` only by bus writes to the configured device, by responses given and by the phase: everything
else the block holds is kept, and the two records of what happened have only grown. -/
structure WriteFrame (s t : State) : Prop where
  addr      : t.addr = s.addr
  pm        : t.pm = s.pm
  st        : t.st = s.st
  latch     : t.latch = s.latch
  requests  : t.requests = s.requests
  otherPins : ∀ a, a ≠ s.addr.toNat → Memory.read t.mem a = Memory.read s.mem a
  trace     : s.trace <+: t.trace
  responses : s.responses <+: t.responses

theorem WriteFrame.refl (s : State) : WriteFrame s s :=
  ⟨rfl, rfl, rfl, rfl, rfl, fun _ _ => rfl, List.prefix_rfl, List.prefix_rfl⟩

theorem WriteFrame.trans {s t u : State} (h : WriteFrame s t) (k : WriteFrame t u) : WriteFrame s u where
  addr := k.addr.trans h.addr
  pm := k.pm.trans h.pm
  st := k.st.trans h.st
  latch := k.latch.trans h.latch
  requests := k.requests.trans h.requests
  otherPins a ha := (k.otherPins a (h.addr ▸ ha)).trans (h.otherPins a ha)
  trace := h.trace.trans k.trace
  responses := h.responses.trans k.responses

theorem prefix_traceAfter (s : State) (b : Byte) (v : Option Verdict) : s.trace <+: traceAfter s b v := by
  cases v with
  | none => exact List.prefix_rfl
  | some v => exact List.prefix_append _ _

theorem busWrite_frame (b : Byte) (s : State) : WriteFrame s (busWrite b s) :=
  ⟨rfl, rfl, rfl, rfl, rfl, busWrite_mem_other b s, prefix_traceAfter s b _, List.prefix_rfl⟩

theorem respond_frame (r : Status) (s : State) : WriteFrame s (respond r s) :=
  ⟨rfl, rfl, rfl, rfl, rfl, fun _ _ => rfl, List.prefix_rfl, List.prefix_append _ _⟩

theorem waitIn_frame (p : Phase) (s : State) : WriteFrame s (waitIn p s) :=
  ⟨rfl, rfl, rfl, rfl, rfl, fun _ _ => rfl, List.prefix_rfl, List.prefix_rfl⟩

theorem issue_frame (s : State) : WriteFrame s (issue s) := by
  by_cases hp : s.ph = .idle
  · rw [issue_idle hp]; exact .refl s
  · rcases issue_cases hp with ⟨-, he⟩ | ⟨-, -, he⟩ | ⟨-, -, he⟩ | ⟨x, landed, -, he⟩ <;> rw [he]
    · exact busWrite_frame _ s
    · exact (busWrite_frame _ s).trans (waitIn_frame _ _)
    · exact (busWrite_frame _ s).trans (respond_frame _ _)
    · exact (busWrite_frame _ s).trans (respond_frame _ _)

/-- The latch-and-write shape puts `l` into the latch; the rest of it is one write. -/
theorem latchAndWrite_frame (l : Latch) (s : State) : WriteFrame { s with latch := l } (latchAndWrite l s) := by
  rcases latchAndWrite_cases l s with ⟨-, he⟩ | ⟨x, landed, -, he⟩ | ⟨-, he⟩ <;> rw [he]
  · exact (busWrite_frame _ _).trans (respond_frame _ _)
  · exact (busWrite_frame _ _).trans (respond_frame _ _)
  · exact (busWrite_frame _ _).trans (waitIn_frame _ _)

theorem pulseLow_frame (s : State) : WriteFrame s (pulseLow s) := by
  rcases pulseLow_cases s with ⟨-, he⟩ | ⟨y, landed, -, he⟩ | ⟨-, he⟩ <;> rw [he]
  · exact (busWrite_frame _ s).trans (respond_frame _ _)
  · exact (busWrite_frame _ s).trans (respond_frame _ _)
  · exact (busWrite_frame _ s).trans (waitIn_frame _ _)

theorem pulse_frame (s : State) : WriteFrame s (pulse s) := by
  rcases pulse_cases s with ⟨-, he⟩ | ⟨x, landed, -, he⟩ | ⟨-, he⟩ <;> rw [he]
  · exact (busWrite_frame _ s).trans (pulseLow_frame _)
  · exact (busWrite_frame _ s).trans (respond_frame _ _)
  · exact (busWrite_frame _ s).trans (waitIn_frame _ _)

/-- A held command joins the requests; the rest is the issue step of the operation in flight. -/
theorem hold_frame (r : Request) (s : State) : WriteFrame { s with requests := r :: s.requests } (hold r s) :=
  { issue_frame s with requests := rfl }

/-! ### Commands -/

/-- Everything a command can do: held, not accepted, or run with its own operand. -/
theorem exec_command_cases {i : Instr} {s t : State} (hi : i.IsCommand) (h : exec i s = .next t) :
    (s.ph ≠ .idle ∧ t = hold (encode i) s) ∨ (s.ph = .idle ∧ s.st ≠ .ready ∧ t = s) ∨
    (Accepts s ∧ IsLatchWrite i ∧ t = latchAndWrite (applyOperand i s.latch) s) ∨
    (Accepts s ∧ i = .pulseEnable ∧ t = pulse s) := by
  by_cases hacc : Accepts s
  · rcases exec_accepted hi hacc with ⟨hw, he⟩ | ⟨hw, he⟩ <;> rw [he] at h <;> injection h with h
    · exact .inr (.inr (.inl ⟨hacc, hw, h.symm⟩))
    · exact .inr (.inr (.inr ⟨hacc, hw, h.symm⟩))
  · rcases exec_cases h with ⟨-, hp, he⟩ | ⟨-, hp, hs, he⟩ | ⟨l, -, hp, hs, -⟩ | ⟨-, hp, hs, -⟩ | ⟨a, m, hn, -⟩ | ⟨hn, -⟩
    · exact .inl ⟨hp, he⟩
    · exact .inr (.inl ⟨hp, hs, he⟩)
    · exact absurd ⟨hs, hp⟩ hacc
    · exact absurd ⟨hs, hp⟩ hacc
    · exact absurd hi hn
    · exact absurd hi hn

/-- The frame of a command in every state: the latch is kept or has the operand in it, and only a busy block gains a request. -/
theorem exec_command_frame {i : Instr} {s t : State} (hi : i.IsCommand) (h : exec i s = .next t) :
    ∃ l rs, WriteFrame { s with latch := l, requests := rs } t ∧
      (l = s.latch ∨ (Accepts s ∧ l = applyOperand i s.latch)) ∧ (s.ph = .idle → rs = s.requests) := by
  rcases exec_command_cases hi h with ⟨hp, rfl⟩ | ⟨-, -, rfl⟩ | ⟨hacc, -, rfl⟩ | ⟨-, -, rfl⟩
  · exact ⟨_, _, hold_frame (encode i) s, .inl rfl, fun hidle => absurd hidle hp⟩
  · exact ⟨_, _, .refl t, .inl rfl, fun _ => rfl⟩
  · exact ⟨_, _, latchAndWrite_frame _ s, .inr ⟨hacc, rfl⟩, fun _ => rfl⟩
  · exact ⟨_, _, pulse_frame s, .inl rfl, fun _ => rfl⟩

theorem exec_command_latch {i : Instr} {s t : State} (hi : i.IsCommand) (h : exec i s = .next t) :
    t.latch = s.latch ∨ (Accepts s ∧ t.latch = applyOperand i s.latch) := by
  obtain ⟨l, rs, hf, hl, -⟩ := exec_command_frame hi h
  exact hf.latch ▸ hl

/-! ### The configuration stays legal -/

/-- A `READY` block with a valid PinMap stays legal through any writes, whatever the phase it ends in. -/
theorem ConfigLegal.of_frame {s t : State} (hf : WriteFrame s t) (hv : s.pm.Valid) (hr : s.st = .ready) :
    ConfigLegal t :=
  ⟨hf.pm ▸ hv, fun _ => hf.st.trans hr⟩

theorem exec_keeps_configLegal {i : Instr} {s t : State} (hc : ConfigLegal s) (h : exec i s = .next t) :
    ConfigLegal t := by
  obtain ⟨hv, hready⟩ := hc
  rcases exec_cases h with ⟨-, hp, rfl⟩ | ⟨-, -, -, rfl⟩ | ⟨l, -, -, hr, rfl⟩ | ⟨-, -, hr, rfl⟩ | ⟨a, m, -, -, hm, rfl⟩ |
    ⟨-, -, rfl⟩
  · exact .of_frame (hold_frame _ s) hv (hready hp)
  · exact ⟨hv, hready⟩
  · exact .of_frame (latchAndWrite_frame l s) hv hr
  · exact .of_frame (pulse_frame s) hv hr
  · exact ⟨hm, fun _ => rfl⟩
  · exact ⟨hv, fun hp => absurd rfl hp⟩

/-! ### The position of its own -/

theorem positions_eq_map (pm : PinMap) : pm.positions = Signal.all.map (pos pm) := rfl

theorem mem_signalAll (sig : Signal) : sig ∈ Signal.all := by cases sig <;> decide

/-- Eight distinct positions are all the positions there are. -/
theorem exists_pos_eq {pm : PinMap} (h : pm.Valid) (q : Position) : ∃ sig, pos pm sig = q := by
  have hnodup : (pm.positions.map BitVec.toFin).Nodup := h.map BitVec.toFin_injective
  have huniv : (pm.positions.map BitVec.toFin).toFinset = Finset.univ :=
    Finset.eq_univ_of_card _ (List.toFinset_card_of_nodup hnodup)
  have hq : q.toFin ∈ pm.positions.map BitVec.toFin := List.mem_toFinset.mp (huniv ▸ Finset.mem_univ _)
  obtain ⟨p, hp, hpq⟩ := List.mem_map.mp hq
  rw [positions_eq_map] at hp
  obtain ⟨sig, -, rfl⟩ := List.mem_map.mp hp
  exact ⟨sig, BitVec.toFin_injective hpq⟩

/-- Under a valid PinMap the composed byte holds each signal's level at that signal's position. -/
theorem bitAt_compose_pos {pm : PinMap} (h : pm.Valid) (v : Levels) (sig : Signal) :
    bitAt (compose pm v) (pos pm sig) = level v sig := by
  rw [bitAt_compose, Bool.eq_iff_iff, List.any_eq_true]
  constructor
  · rintro ⟨s, -, hs⟩
    obtain ⟨hlevel, hpos⟩ := Bool.and_eq_true_iff.mp hs
    rwa [pos_inj h (of_decide_eq_true hpos)]
  · exact fun hlevel => ⟨sig, mem_signalAll sig, by simp [hlevel]⟩

/-- The suggested layout keeps the nibble together above the backlight, the enable line and the two control lines. -/
theorem compose_suggestedPinMap (v : Levels) :
    (compose suggestedPinMap v).toNat =
      v.nib.toNat * 16 + v.bl.toNat * 8 + v.e.toNat * 4 + v.rw.toNat * 2 + v.rs.toNat := by
  obtain ⟨rs, rw, nib, bl, e⟩ := v
  revert rs rw nib bl e
  decide

/-! ### The statements -/

/-- Settles O43: only construction changes the PinMap, and it checks it first; only an operation of a `READY` block leaves it busy. -/
theorem stepKeepsConfigurationLegal : Obligations.StepKeepsConfigurationLegal := by
  intro s t hc h
  rcases step_cases h with ⟨hp, rfl⟩ | ⟨-, -, rfl⟩ | ⟨r, rest, -, -, he⟩
  · exact .of_frame (issue_frame s) hc.1 (hc.2 hp)
  · exact hc
  · exact exec_keeps_configLegal (s := { s with requests := rest }) hc he

/-- Settles O5, by the one signal that has the position. -/
theorem composeBitByBit : Obligations.ComposeBitByBit := by
  refine ⟨fun pm h v q => ?_, compose_suggestedPinMap⟩
  obtain ⟨sig, rfl⟩ := exists_pos_eq h q
  exact ⟨sig, rfl, fun _ => pos_inj h, bitAt_compose_pos h v sig⟩

/-- Settles O37, field by field from the frame of a command. -/
theorem frameOfRunTimeOperations : Obligations.FrameOfRunTimeOperations := by
  intro i s t hi h
  obtain ⟨l, rs, hf, hl, hrs⟩ := exec_command_frame hi h
  exact ⟨hf.addr, hf.pm, hf.st, hf.latch ▸ hl, hf.otherPins, hf.trace, hf.responses,
    fun hp => hf.requests.trans (hrs hp)⟩

/-- Settles O38: the latch is kept or has exactly the operand in it. -/
theorem latchFieldsEachOperationKeeps : Obligations.LatchFieldsEachOperationKeeps := by
  refine ⟨fun rs rw s t h => ?_, fun n s t h => ?_, fun on s t h => ?_, fun s t h => ?_⟩ <;>
    rcases exec_command_latch trivial h with hl | ⟨-, hl⟩ <;> simp [hl, applyOperand]

end Sys2Proof.Machine

/-! PROOFS. A step is a run of at most two bus writes or a new construction; the two statements about the trace and the pins
follow from that. -/

namespace Sys2Proof.Machine

/-! ### Runs of bus writes -/

/-- `t` comes out of `s` by at most `n` answered writes to the configured device (`20_memory.md` R26): their events are added
to the trace, and the pins hold the last byte afterwards if they did before. -/
structure BusRun (n : Nat) (s t : State) : Prop where
  addr   : t.addr = s.addr
  events : ∃ es, t.trace = s.trace ++ es ∧ es.length ≤ n ∧ ∀ e ∈ es, e.addr = s.addr
  pins   : PinsHoldLast s → PinsHoldLast t

/-- A change that keeps the address, the trace and the pins is a run without a write. -/
theorem BusRun.of_eq {n : Nat} {s t : State} (ha : t.addr = s.addr) (ht : t.trace = s.trace) (hm : t.mem = s.mem) :
    BusRun n s t where
  addr := ha
  events := ⟨[], by simp [ht]⟩
  pins hs := by simpa only [PinsHoldLast, State.pins, ha, ht, hm] using hs

theorem BusRun.trans {m n : Nat} {s t u : State} (h : BusRun m s t) (k : BusRun n t u) : BusRun (m + n) s u where
  addr := k.addr.trans h.addr
  events := by
    obtain ⟨es, ht, hlen, hes⟩ := h.events
    obtain ⟨fs, hu, klen, hfs⟩ := k.events
    refine ⟨es ++ fs, by rw [hu, ht, List.append_assoc], by rw [List.length_append]; omega, fun e he => ?_⟩
    rcases List.mem_append.mp he with he | he
    · exact hes e he
    · exact (hfs e he).trans h.addr
  pins hs := k.pins (h.pins hs)

theorem BusRun.mono {m n : Nat} {s t : State} (h : BusRun m s t) (hmn : m ≤ n) : BusRun n s t :=
  { h with events := h.events.imp fun _ ⟨ht, hlen, hes⟩ => ⟨ht, hlen.trans hmn, hes⟩ }

/-- What keeps the address, the trace and the pins may follow a run: an answer to the host, or a change of phase. -/
theorem BusRun.keep {n : Nat} {s t u : State} (h : BusRun n s t) (ha : u.addr = t.addr) (ht : u.trace = t.trace)
    (hm : u.mem = t.mem) : BusRun n s u :=
  h.trans (n := 0) (.of_eq ha ht hm)

theorem BusRun.traceAddressed {n : Nat} {s t : State} (h : BusRun n s t) (hs : TraceAddressed s) : TraceAddressed t := by
  obtain ⟨es, ht, -, hes⟩ := h.events
  intro e he
  rw [h.addr]
  rcases List.mem_append.mp (ht ▸ he) with he | he
  · exact hs e he
  · exact hes e he

/-! ### What each operation writes -/

/-- The events of one write: none while it is unanswered, else the one with the transport's verdict. -/
theorem traceAfter_eq_append (s : State) (b : Byte) (v : Option Verdict) :
    traceAfter s b v = s.trace ++ (v.map (BusEvent.mk s.addr b)).toList := by
  cases v <;> simp

/-- A write keeps the pins on the last byte: a successful one lands, a failed one says nothing of the pins, and one that is
unanswered changes neither trace nor pins. -/
theorem busWrite_pinsHoldLast (b : Byte) {s : State} (hs : PinsHoldLast s) : PinsHoldLast (busWrite b s) := by
  intro e he hok
  cases ha : nextAnswer s with
  | ok =>
    obtain rfl : { addr := s.addr, byte := b, result := .ok } = e := by simpa [ha] using he
    exact busWrite_ok_pins ha
  | err x landed =>
    obtain rfl : { addr := s.addr, byte := b, result := .err x } = e := by simpa [ha] using he
    cases hok
  | silent =>
    have hpins : (busWrite b s).pins = s.pins := by simp [State.pins, ha]
    rw [hpins]
    exact hs e (by simpa [ha] using he) hok

theorem busWrite_run (b : Byte) (s : State) : BusRun 1 s (busWrite b s) where
  addr := rfl
  events := ⟨_, traceAfter_eq_append s b _, by cases verdictOf (nextAnswer s) <;> simp, by simp⟩
  pins := busWrite_pinsHoldLast b

theorem issue_run (s : State) : BusRun 1 s (issue s) := by
  by_cases hp : s.ph = .idle
  · rw [issue_idle hp]; exact .of_eq rfl rfl rfl
  · rcases issue_cases hp with ⟨-, he⟩ | ⟨-, -, he⟩ | ⟨-, -, he⟩ | ⟨x, landed, -, he⟩ <;> rw [he]
    · exact busWrite_run _ s
    all_goals exact (busWrite_run _ s).keep rfl rfl rfl

theorem latchAndWrite_run (l : Latch) (s : State) : BusRun 1 s (latchAndWrite l s) := by
  have hlatch : BusRun 0 s { s with latch := l } := .of_eq rfl rfl rfl
  rcases latchAndWrite_cases l s with ⟨-, he⟩ | ⟨x, landed, -, he⟩ | ⟨-, he⟩ <;> rw [he] <;>
    exact (hlatch.trans (busWrite_run _ _)).keep rfl rfl rfl

theorem pulseLow_run (s : State) : BusRun 1 s (pulseLow s) := by
  rcases pulseLow_cases s with ⟨-, he⟩ | ⟨y, landed, -, he⟩ | ⟨-, he⟩ <;> rw [he] <;>
    exact (busWrite_run _ s).keep rfl rfl rfl

theorem pulse_run (s : State) : BusRun 2 s (pulse s) := by
  rcases pulse_cases s with ⟨-, he⟩ | ⟨x, landed, -, he⟩ | ⟨-, he⟩ <;> rw [he]
  · exact (busWrite_run _ s).trans (pulseLow_run _)
  all_goals exact ((busWrite_run _ s).mono one_le_two).keep rfl rfl rfl

/-! ### A step -/

/-- An operation of an idle block runs at most two writes, or is a construction that empties the trace. -/
theorem exec_run_or_constructs {i : Instr} {s t : State} (hp : s.ph = .idle) (h : exec i s = .next t) :
    BusRun 2 s t ∨ (¬ i.IsCommand ∧ t.trace = []) := by
  rcases exec_cases h with ⟨-, hbusy, -⟩ | ⟨-, -, -, rfl⟩ | ⟨l, -, -, -, rfl⟩ | ⟨-, -, -, rfl⟩ | ⟨a, m, hi, -, -, rfl⟩ |
    ⟨-, -, rfl⟩
  · exact absurd hp hbusy
  · exact .inl (.of_eq rfl rfl rfl)
  · exact .inl ((latchAndWrite_run l s).mono one_le_two)
  · exact .inl (pulse_run s)
  · exact .inr ⟨hi, rfl⟩
  · exact .inl (.of_eq rfl rfl rfl)

/-- Only a configuration word spells a construction. -/
theorem eq_configure_of_not_isCommand {r : Request} (h : ¬ (decode r).IsCommand) : ∃ w, r = .configure w := by
  cases r with
  | command w => exact absurd (decodeCommand_isCommand w) h
  | configure w => exact ⟨w, rfl⟩

/-- A step runs at most two writes, or takes a configuration word and empties the trace. -/
theorem step_run_or_constructs {s t : State} (h : step s = .next t) :
    BusRun 2 s t ∨ ∃ w rest, s.requests = .configure w :: rest ∧ s.ph = .idle ∧ t.trace = [] := by
  rcases step_cases h with ⟨-, rfl⟩ | ⟨-, -, rfl⟩ | ⟨r, rest, hp, hr, he⟩
  · exact .inl ((issue_run s).mono one_le_two)
  · exact .inl (.of_eq rfl rfl rfl)
  · have htake : BusRun 0 s { s with requests := rest } := .of_eq rfl rfl rfl
    rcases exec_run_or_constructs (s := { s with requests := rest }) hp he with hrun | ⟨hi, ht⟩
    · exact .inl (htake.trans hrun)
    · obtain ⟨w, rfl⟩ := eq_configure_of_not_isCommand hi
      exact .inr ⟨w, rest, hr, hp, ht⟩

/-! ### The statements about the trace and the pins -/

/-- Settles O44: a run of writes keeps both facts write by write, and an empty trace has them trivially. -/
theorem stepKeepsPinsOnLastByte : Obligations.StepKeepsPinsOnLastByte := by
  intro s t haddr hpins h
  rcases step_run_or_constructs h with hrun | ⟨w, rest, -, -, ht⟩
  · exact ⟨hrun.traceAddressed haddr, hrun.pins hpins⟩
  · exact ⟨by simp [TraceAddressed, ht], by simp [PinsHoldLast, ht]⟩

/-- Settles O41: the events of the run, or the construction. -/
theorem traceOnlyGrows : Obligations.TraceOnlyGrows :=
  fun _ _ h => (step_run_or_constructs h).imp_left BusRun.events

end Sys2Proof.Machine

/-! PROOFS. The levels a byte gives, the bits of masks and of their OR, and the two statements that compare the composed byte with
them: bit by bit, each position being that of one signal. -/

namespace Sys2Proof.Machine

/-! ### The levels a byte gives -/

theorem Levels.ext_level {v w : Levels} (h : ∀ sig, level v sig = level w sig) : v = w := by
  obtain ⟨rs, rw, nib, bl, e⟩ := v
  obtain ⟨rs', rw', nib', bl', e'⟩ := w
  obtain rfl : rs = rs' := h .rs
  obtain rfl : rw = rw' := h .rw
  obtain rfl : bl = bl' := h .bl
  obtain rfl : e = e' := h .e
  obtain rfl : nib = nib' := BitVec.eq_of_getLsbD_eq fun i hi => by
    match i, hi with
    | 0, _ => exact h .d4
    | 1, _ => exact h .d5
    | 2, _ => exact h .d6
    | 3, _ => exact h .d7
  rfl

/-- Concatenating four bits, the highest first, puts each at its own place in the nibble (`30_encoding.md` R43). -/
theorem nibBit_append (b3 b2 b1 b0 : Bool) :
    nibBit (bit1 b3 ++ bit1 b2 ++ bit1 b1 ++ bit1 b0) 0 = b0 ∧ nibBit (bit1 b3 ++ bit1 b2 ++ bit1 b1 ++ bit1 b0) 1 = b1 ∧
    nibBit (bit1 b3 ++ bit1 b2 ++ bit1 b1 ++ bit1 b0) 2 = b2 ∧ nibBit (bit1 b3 ++ bit1 b2 ++ bit1 b1 ++ bit1 b0) 3 = b3 := by
  revert b3 b2 b1 b0; decide

/-- Decomposing reads each signal's level at that signal's position. -/
theorem level_decompose (pm : PinMap) (b : Byte) (sig : Signal) : level (decompose pm b) sig = bitAt b (pos pm sig) := by
  obtain ⟨h0, h1, h2, h3⟩ := nibBit_append (bitAt b pm.d7) (bitAt b pm.d6) (bitAt b pm.d5) (bitAt b pm.d4)
  cases sig with
  | rs | rw | e | bl => rfl
  | d4 => exact h0
  | d5 => exact h1
  | d6 => exact h2
  | d7 => exact h3

/-! ### The bits of masks -/

theorem toNat_mask (pm : PinMap) (sig : Signal) : (mask pm sig).toNat = 2 ^ (pos pm sig).toNat := by
  rw [mask, ← BitVec.twoPow_eq, BitVec.toNat_twoPow_of_lt (pos pm sig).isLt]

theorem bitAt_mask (pm : PinMap) (sig : Signal) (q : Position) : bitAt (mask pm sig) q = decide (q = pos pm sig) := by
  rw [mask_eq_place, bitAt_place, Bool.true_and]

/-- The OR of the masks of some signals has the bits at their positions. -/
theorem bitAt_maskOf (pm : PinMap) (k : List Signal) (q : Position) :
    bitAt (maskOf pm k) q = k.any fun sig => decide (q = pos pm sig) := by
  induction k with
  | nil => simp [maskOf, bitAt]
  | cons sig k ih =>
    change bitAt (mask pm sig ||| maskOf pm k) q = _
    rw [bitAt_or, bitAt_mask, ih, List.any_cons]

theorem bitAt_allOnes (q : Position) : bitAt 0xFF#8 q = true := by revert q; decide

/-- Masks of signals with different positions have no bit in common. -/
theorem mask_and_mask_eq_zero {pm : PinMap} {sig sig' : Signal} (hpos : pos pm sig ≠ pos pm sig') :
    mask pm sig &&& mask pm sig' = 0#8 := by
  refine byte_ext fun q => ?_
  rw [bitAt_and, bitAt_mask, bitAt_mask]
  by_cases hq : q = pos pm sig
  · simp [hq, hpos, bitAt]
  · simp [hq, bitAt]

/-- Eight distinct positions leave no bit of the byte without a mask. -/
theorem maskOf_all {pm : PinMap} (h : pm.Valid) : maskOf pm Signal.all = 0xFF#8 := by
  refine byte_ext fun q => ?_
  obtain ⟨sig, rfl⟩ := exists_pos_eq h q
  rw [bitAt_maskOf, bitAt_allOnes, List.any_eq_true]
  exact ⟨sig, mem_signalAll sig, decide_eq_true rfl⟩

/-- The composed byte is the OR of the masks of the asserted signals, whatever the PinMap (`40_pinmap_decoder.md` R63). -/
theorem compose_eq_maskOf (pm : PinMap) (v : Levels) : compose pm v = maskOf pm (Signal.all.filter (level v)) := by
  refine byte_ext fun q => ?_
  rw [bitAt_compose, bitAt_maskOf, List.any_filter]

/-! ### The statements -/

/-- Settles O6: composing puts each level at its signal's position, where decomposing reads it, and no position is left out. -/
theorem composeDecomposeInverse : Obligations.ComposeDecomposeInverse := by
  refine fun pm h => ⟨fun v => Levels.ext_level fun sig => ?_, fun b => byte_ext fun q => ?_⟩
  · rw [level_decompose, bitAt_compose_pos h]
  · obtain ⟨sig, rfl⟩ := exists_pos_eq h q
    rw [bitAt_compose_pos h, level_decompose]

/-- Settles O7: different signals have different positions, and every position is some signal's. -/
theorem masksPartitionTheByte : Obligations.MasksPartitionTheByte :=
  ⟨fun pm h => ⟨toNat_mask pm, fun _ _ hne => mask_and_mask_eq_zero fun hpos => hne (pos_inj h hpos), maskOf_all h⟩,
    compose_eq_maskOf⟩

end Sys2Proof.Machine

/-! PROOFS. The three tests of a valid PinMap, by the positions a PinMap leaves free and by the least number of powers of two
with a given sum; and the immutability of the configuration, by the frame of everything but a construction. -/

namespace Sys2Proof.Machine

/-! ### Sums of powers of two -/

/-- Adding a power of two adds at most one binary 1: a carry only moves one. -/
theorem length_bitIndices_add_two_pow (n k : Nat) :
    (n + 2 ^ k).bitIndices.length ≤ n.bitIndices.length + 1 := by
  induction k generalizing n with
  | zero =>
    induction n using Nat.binaryRec with
    | zero => simp
    | bit b m ih =>
      cases b with
      | false => simp
      | true =>
        have hcarry : Nat.bit true m + 2 ^ 0 = 2 * (m + 2 ^ 0) := by rw [Nat.bit_true_apply]; ring
        rw [hcarry]
        simpa using ih.trans (Nat.le_succ _)
  | succ k ih =>
    have hhalf : n + 2 ^ (k + 1) = Nat.bit n.bodd (n.div2 + 2 ^ k) := by
      conv_lhs => rw [← Nat.bit_bodd_div2 n]
      simp only [Nat.bit_val]; omega
    rw [hhalf]
    conv_rhs => rw [← Nat.bit_bodd_div2 n]
    cases n.bodd <;> simpa using ih n.div2

/-- No list of powers of two is shorter than the binary form of its sum. -/
theorem length_bitIndices_sum_two_pow_le (l : List Nat) :
    (l.map (2 ^ ·)).sum.bitIndices.length ≤ l.length := by
  induction l with
  | nil => simp
  | cons k l ih =>
    rw [List.map_cons, List.sum_cons, Nat.add_comm]
    exact (length_bitIndices_add_two_pow _ k).trans (Nat.succ_le_succ ih)

/-- A list as short as the binary form of its sum repeats no power: two equal ones could be merged into the next. -/
theorem nodup_of_length_le_bitIndices {l : List Nat}
    (h : l.length ≤ (l.map (2 ^ ·)).sum.bitIndices.length) : l.Nodup := by
  refine List.nodup_iff_sublist.mpr fun k hk => ?_
  obtain ⟨rest, hperm⟩ := hk.exists_perm_append
  have hmerge : (l.map (2 ^ ·)).sum = (((k + 1) :: rest).map (2 ^ ·)).sum := by
    rw [(hperm.map _).sum_eq]
    simp only [List.map_append, List.map_cons, List.map_nil, List.sum_append, List.sum_cons, List.sum_nil]
    ring
  have hmin := length_bitIndices_sum_two_pow_le ((k + 1) :: rest)
  rw [← hmerge] at hmin
  have hlen := hperm.length_eq
  simp only [List.length_append, List.length_cons, List.length_nil] at hmin hlen
  omega

/-! ### The tests of a PinMap -/

/-- The sum of the masks is the sum of the powers of two at the positions. -/
theorem sum_masks (pm : PinMap) :
    (Signal.all.map fun sig => (mask pm sig).toNat).sum = ((pm.positions.map BitVec.toNat).map (2 ^ ·)).sum := by
  simp [positions_eq_map, toNat_mask, Function.comp_def]

/-- Eight positions that leave none free are those of the suggested layout in another order. -/
theorem positions_perm {pm : PinMap} (h : ∀ q, ∃ sig, pos pm sig = q) : suggestedPinMap.positions.Perm pm.positions := by
  refine (List.subperm_of_subset (by decide) fun q _ => ?_).perm_of_length_le le_rfl
  obtain ⟨sig, rfl⟩ := h q
  rw [positions_eq_map]
  exact List.mem_map_of_mem (mem_signalAll sig)

theorem pos_ne_iff_valid (pm : PinMap) : (∀ sig sig', sig ≠ sig' → pos pm sig ≠ pos pm sig') ↔ pm.Valid := by
  constructor
  · intro hne
    rw [PinMap.Valid, positions_eq_map]
    exact List.Nodup.map (fun sig sig' => not_imp_not.mp (hne sig sig')) (by decide)
  · exact fun h sig sig' hne hpos => hne (pos_inj h hpos)

theorem valid_iff_maskOf_all (pm : PinMap) : pm.Valid ↔ maskOf pm Signal.all = 0xFF#8 := by
  refine ⟨maskOf_all, fun hall => (positions_perm fun q => ?_).nodup (by decide)⟩
  have hbit : bitAt (maskOf pm Signal.all) q = true := by rw [hall, bitAt_allOnes]
  rw [bitAt_maskOf, List.any_eq_true] at hbit
  obtain ⟨sig, -, hq⟩ := hbit
  exact ⟨sig, (of_decide_eq_true hq).symm⟩

theorem valid_iff_sum_masks (pm : PinMap) :
    pm.Valid ↔ (Signal.all.map fun sig => (mask pm sig).toNat).sum = 255 := by
  rw [sum_masks]
  constructor
  · intro h
    rw [← (((positions_perm (exists_pos_eq h)).map _).map _).sum_eq]
    decide
  · intro hsum
    refine List.Nodup.of_map BitVec.toNat (nodup_of_length_le_bitIndices ?_)
    rw [hsum]
    change 8 ≤ (Nat.bitIndices 255).length
    decide

/-! ### What changes the configuration -/

theorem exec_command_keeps_config {i : Instr} {s t : State} (hi : i.IsCommand) (h : exec i s = .next t) :
    t.addr = s.addr ∧ t.pm = s.pm := by
  obtain ⟨l, rs, hf, -⟩ := exec_command_frame hi h
  exact ⟨hf.addr, hf.pm⟩

/-- An operation keeps the configuration, or is a construction that starts the latch and the trace again. -/
theorem exec_keeps_config_or_constructs {i : Instr} {s t : State} (h : exec i s = .next t) :
    (t.addr = s.addr ∧ t.pm = s.pm) ∨ (¬ i.IsCommand ∧ t.latch = Latch.reset ∧ t.trace = []) := by
  by_cases hi : i.IsCommand
  · exact .inl (exec_command_keeps_config hi h)
  · rcases exec_cases h with ⟨hc, -⟩ | ⟨hc, -⟩ | ⟨l, hc, -⟩ | ⟨rfl, -⟩ | ⟨a, m, -, -, -, rfl⟩ | ⟨-, -, rfl⟩
    · exact absurd hc hi
    · exact absurd hc hi
    · exact absurd hc hi
    · exact absurd trivial hi
    · exact .inr ⟨hi, rfl, rfl⟩
    · exact .inl ⟨rfl, rfl⟩

/-! ### The statements -/

/-- Settles O8: a PinMap is valid exactly when no position is left free, and eight powers of two with the sum 255, which has
eight binary 1s, are all different. -/
theorem validityTestsAgree : Obligations.ValidityTestsAgree :=
  fun pm => ⟨pos_ne_iff_valid pm, valid_iff_maskOf_all pm, valid_iff_sum_masks pm⟩

/-- Settles O40: an issue step and a step without a request are no construction, and a request that constructs is a
configuration word. -/
theorem configurationIsImmutable : Obligations.ConfigurationIsImmutable := by
  refine ⟨fun _ _ _ => exec_command_keeps_config, fun s t h hchanged => ?_⟩
  have hnotkept : ¬ (t.addr = s.addr ∧ t.pm = s.pm) := not_and_or.mpr hchanged
  rcases step_cases h with ⟨-, rfl⟩ | ⟨-, -, rfl⟩ | ⟨r, rest, hp, hr, he⟩
  · exact absurd ⟨(issue_frame s).addr, (issue_frame s).pm⟩ hnotkept
  · exact absurd ⟨rfl, rfl⟩ hnotkept
  · rcases exec_keeps_config_or_constructs he with hkept | ⟨hi, hl, ht⟩
    · exact absurd hkept hnotkept
    · obtain ⟨w, rfl⟩ := eq_configure_of_not_isCommand hi
      exact ⟨w, rest, hp, hr, hl, ht⟩

end Sys2Proof.Machine

/-! PROOFS. What a command run by an accepting block writes, as one list of writes; the operand each signal was last given in a
list of operations; and the five statements about the operations that write the latch. -/

namespace Sys2Proof.Machine

/-! ### Writes of the held latch -/

/-- The event of one write, given as its enable level and the transport's answer: the whole latch composed, none while it is
unanswered (`10_state.md` R20). -/
def eventOf (s : State) (w : Bool × Answer) : Option BusEvent :=
  (verdictOf w.2).map (BusEvent.mk s.addr (outByte s w.1))

/-- `t` comes out of `s` by the writes `ws` of the held latch, one answer taken for each; the phase and the responses are free. -/
structure Wrote (ws : List (Bool × Answer)) (s t : State) : Prop where
  addr    : t.addr = s.addr
  pm      : t.pm = s.pm
  st      : t.st = s.st
  latch   : t.latch = s.latch
  trace   : t.trace = s.trace ++ ws.filterMap (eventOf s)
  answers : t.answers = s.answers.drop ws.length
  draws   : t.draws = s.draws + ws.length

theorem eventOf_congr {s t : State} (ha : t.addr = s.addr) (hp : t.pm = s.pm) (hl : t.latch = s.latch) :
    eventOf t = eventOf s := by
  funext w
  simp [eventOf, outByte, ha, hp, hl]

theorem Wrote.trans {ws ws' : List (Bool × Answer)} {s t u : State} (h : Wrote ws s t) (k : Wrote ws' t u) :
    Wrote (ws ++ ws') s u where
  addr := k.addr.trans h.addr
  pm := k.pm.trans h.pm
  st := k.st.trans h.st
  latch := k.latch.trans h.latch
  trace := by
    rw [k.trace, h.trace, eventOf_congr h.addr h.pm h.latch, List.filterMap_append, List.append_assoc]
  answers := by rw [k.answers, h.answers, List.drop_drop, List.length_append]
  draws := by rw [k.draws, h.draws, List.length_append, Nat.add_assoc]

theorem Wrote.respond {ws : List (Bool × Answer)} {s t : State} (h : Wrote ws s t) (r : Status) :
    Wrote ws s (respond r t) :=
  ⟨h.addr, h.pm, h.st, h.latch, h.trace, h.answers, h.draws⟩

theorem Wrote.waitIn {ws : List (Bool × Answer)} {s t : State} (h : Wrote ws s t) (p : Phase) :
    Wrote ws s (waitIn p t) :=
  ⟨h.addr, h.pm, h.st, h.latch, h.trace, h.answers, h.draws⟩

theorem busWrite_wrote (en : Bool) (s : State) : Wrote [(en, nextAnswer s)] s (busWrite (outByte s en) s) where
  addr := rfl
  pm := rfl
  st := rfl
  latch := rfl
  trace := by
    rw [busWrite_trace, traceAfter_eq_append]
    cases hv : verdictOf (nextAnswer s) <;> simp [eventOf, hv]
  answers := by simp
  draws := by simp

theorem latchAndWrite_wrote (l : Latch) (s : State) :
    Wrote [(false, nextAnswer s)] { s with latch := l } (latchAndWrite l s) := by
  have hw : Wrote [(false, nextAnswer s)] { s with latch := l } _ := busWrite_wrote false { s with latch := l }
  rcases latchAndWrite_cases l s with ⟨-, he⟩ | ⟨x, landed, -, he⟩ | ⟨-, he⟩ <;> rw [he]
  · exact hw.respond _
  · exact hw.respond _
  · exact hw.waitIn _

theorem pulseLow_wrote (s : State) : Wrote [(false, nextAnswer s)] s (pulseLow s) := by
  rcases pulseLow_cases s with ⟨-, he⟩ | ⟨y, landed, -, he⟩ | ⟨-, he⟩ <;> rw [he]
  · exact (busWrite_wrote false s).respond _
  · exact (busWrite_wrote false s).respond _
  · exact (busWrite_wrote false s).waitIn _

/-! ### What a command writes -/

/-- The writes of an accepted command: the second of a pulse is made only after the first succeeded (`42_pulse_enable.md` R80). -/
def writesOf (i : Instr) (s : State) : List (Bool × Answer) :=
  match i with
  | .setControl _ _ => [(false, nextAnswer s)]
  | .setDataNibble _ => [(false, nextAnswer s)]
  | .setBacklight _ => [(false, nextAnswer s)]
  | .pulseEnable =>
    if nextAnswer s = .ok then [(true, nextAnswer s), (false, nextAnswer (takeAnswer s))] else [(true, nextAnswer s)]
  | .configureDefault _ => []
  | .configureOverride _ _ => []

theorem isCommand_of_isLatchWrite {i : Instr} (hi : IsLatchWrite i) : i.IsCommand := by
  cases i with
  | setControl rs rw | setDataNibble n | setBacklight on => trivial
  | pulseEnable | configureDefault a | configureOverride a m => exact hi.elim

theorem writesOf_latchWrite {i : Instr} (hi : IsLatchWrite i) (s : State) : writesOf i s = [(false, nextAnswer s)] := by
  cases i with
  | setControl rs rw | setDataNibble n | setBacklight on => rfl
  | pulseEnable | configureDefault a | configureOverride a m => exact hi.elim

theorem writesOf_pulse_ok {s : State} (h : nextAnswer s = .ok) :
    writesOf .pulseEnable s = [(true, nextAnswer s), (false, nextAnswer (takeAnswer s))] := if_pos h

theorem writesOf_pulse_not_ok {s : State} (h : nextAnswer s ≠ .ok) :
    writesOf .pulseEnable s = [(true, nextAnswer s)] := if_neg h

/-- The forms the writes of a command can take. -/
theorem writesOf_cases {i : Instr} (hi : i.IsCommand) (s : State) :
    (∃ en, writesOf i s = [(en, nextAnswer s)]) ∨
      writesOf i s = [(true, nextAnswer s), (false, nextAnswer (takeAnswer s))] := by
  cases i with
  | setControl rs rw | setDataNibble n | setBacklight on => exact .inl ⟨false, rfl⟩
  | pulseEnable =>
    by_cases h : nextAnswer s = .ok
    · exact .inr (writesOf_pulse_ok h)
    · exact .inl ⟨true, writesOf_pulse_not_ok h⟩
  | configureDefault a | configureOverride a m => exact hi.elim

/-- What a command run by an accepting block does: its operand goes into the latch, its writes compose the latch with the operand
in it, and the block is idle again once they have all been answered. -/
structure CommandRun (i : Instr) (s t : State) : Prop where
  writes : Wrote (writesOf i s) { s with latch := applyOperand i s.latch } t
  idle   : (∀ w ∈ writesOf i s, w.2 ≠ .silent) → t.ph = .idle

theorem latchAndWrite_commandRun {i : Instr} (hi : IsLatchWrite i) (s : State) :
    CommandRun i s (latchAndWrite (applyOperand i s.latch) s) := by
  constructor <;> rw [writesOf_latchWrite hi]
  · exact latchAndWrite_wrote _ s
  · intro hans
    have hne : nextAnswer s ≠ .silent := hans _ List.mem_cons_self
    rcases latchAndWrite_cases (applyOperand i s.latch) s with ⟨-, he⟩ | ⟨x, landed, -, he⟩ | ⟨ha, -⟩
    · rw [he, returnOk_ph]
    · rw [he, raiseBusError_ph]
    · exact absurd ha hne

theorem pulseLow_idle {s : State} (h : nextAnswer s ≠ .silent) : (pulseLow s).ph = .idle := by
  rcases pulseLow_cases s with ⟨-, he⟩ | ⟨y, landed, -, he⟩ | ⟨ha, -⟩
  · rw [he, returnOk_ph]
  · rw [he, raiseBusError_ph]
  · exact absurd ha h

theorem pulse_commandRun (s : State) : CommandRun .pulseEnable s (pulse s) := by
  have hfirst := busWrite_wrote true s
  rcases pulse_cases s with ⟨ha, he⟩ | ⟨x, landed, ha, he⟩ | ⟨ha, he⟩ <;> rw [he]
  · constructor <;> rw [writesOf_pulse_ok ha]
    · exact hfirst.trans (pulseLow_wrote (busWrite (outByte s true) s))
    · exact fun hans => pulseLow_idle (hans (false, nextAnswer (takeAnswer s)) (by simp))
  · constructor <;> rw [writesOf_pulse_not_ok (by simp [ha])]
    · exact hfirst.respond _
    · exact fun _ => rfl
  · constructor <;> rw [writesOf_pulse_not_ok (by simp [ha])]
    · exact hfirst.waitIn _
    · exact fun hans => absurd ha (hans _ List.mem_cons_self)

/-- An accepting block runs every command. -/
theorem exec_commandRun {i : Instr} {s : State} (hi : i.IsCommand) (hacc : Accepts s) :
    ∃ t, exec i s = .next t ∧ CommandRun i s t := by
  rcases exec_accepted hi hacc with ⟨hw, he⟩ | ⟨rfl, he⟩
  · exact ⟨_, he, latchAndWrite_commandRun hw s⟩
  · exact ⟨_, he, pulse_commandRun s⟩

section
variable {i : Instr} {s t : State} (h : CommandRun i s t)
include h

theorem CommandRun.pm : t.pm = s.pm := h.writes.pm

theorem CommandRun.latch : t.latch = applyOperand i s.latch := h.writes.latch

theorem CommandRun.newEvents_eq :
    newEvents s t = (writesOf i s).filterMap (eventOf { s with latch := applyOperand i s.latch }) := by
  rw [newEvents, h.writes.trace, List.drop_left]

/-- Every byte is composed from the whole latch with the operand in it. -/
theorem CommandRun.byte_eq {e : BusEvent} (he : e ∈ newEvents s t) :
    ∃ en, e.byte = compose s.pm ((applyOperand i s.latch).levels en) := by
  rw [h.newEvents_eq] at he
  obtain ⟨⟨en, a⟩, -, hw⟩ := List.mem_filterMap.mp he
  obtain ⟨v, -, rfl⟩ := Option.map_eq_some_iff.mp hw
  exact ⟨en, rfl⟩

/-- A first write that is answered has an event. -/
theorem CommandRun.newEvents_ne_nil (hi : i.IsCommand) (hans : nextAnswer s ≠ .silent) : newEvents s t ≠ [] := by
  obtain ⟨v, hv⟩ := Option.ne_none_iff_exists'.mp (mt verdictOf_eq_none.mp hans)
  rw [h.newEvents_eq]
  rcases writesOf_cases hi s with ⟨en, hw⟩ | hw <;> simp [hw, eventOf, hv]

end

/-! ### When the transport answers -/

theorem Answering.mono {m n : Nat} {s : State} (h : Answering n s) (hmn : m ≤ n) : Answering m s :=
  ⟨hmn.trans h.1, fun hm => h.2 (List.take_subset_take_left _ hmn hm)⟩

/-- The answers that are left after some were taken. -/
theorem Answering.of_drop {k n : Nat} {s t : State} (h : Answering (k + n) s) (ht : t.answers = s.answers.drop k) :
    Answering n t := by
  obtain ⟨hlen, hsilent⟩ := h
  rw [List.take_add, List.mem_append, not_or] at hsilent
  rw [Answering, ht, List.length_drop]
  exact ⟨by omega, hsilent.2⟩

theorem Answering.nextAnswer_ne {s : State} (h : Answering 1 s) : nextAnswer s ≠ .silent := by
  obtain ⟨hlen, hsilent⟩ := h
  obtain ⟨a, as, has⟩ := List.exists_cons_of_length_pos hlen
  rw [nextAnswer_cons has]
  rintro rfl
  simp [has] at hsilent

section
variable {i : Instr} {s t : State} {n : Nat}

/-- The two fixed answers are enough for whatever a command writes. -/
theorem writesOf_answered (hi : i.IsCommand) (h : Answering 2 s) : ∀ w ∈ writesOf i s, w.2 ≠ .silent := by
  have h1 : nextAnswer s ≠ .silent := (h.mono one_le_two).nextAnswer_ne
  have h2 : nextAnswer (takeAnswer s) ≠ .silent := (h.of_drop (k := 1) (n := 1) (by simp)).nextAnswer_ne
  rcases writesOf_cases hi s with ⟨en, hw⟩ | hw <;> simp [hw, h1, h2]

theorem length_writesOf_le (hi : i.IsCommand) : (writesOf i s).length ≤ 2 := by
  rcases writesOf_cases hi s with ⟨en, hw⟩ | hw <;> simp [hw]

theorem CommandRun.accepts (h : CommandRun i s t) (hi : i.IsCommand) (hacc : Accepts s) (hans : Answering 2 s) :
    Accepts t :=
  ⟨h.writes.st.trans hacc.1, h.idle (writesOf_answered hi hans)⟩

theorem CommandRun.answering (h : CommandRun i s t) (hi : i.IsCommand) (hans : Answering (2 + n) s) : Answering n t :=
  (hans.mono (Nat.add_le_add_right (length_writesOf_le hi) n)).of_drop h.writes.answers

end

/-! ### Lists of commands -/

/-- Commands run one after the other. -/
inductive SessionRun : List Instr → State → State → Prop
  | nil (s : State) : SessionRun [] s s
  | cons {i : Instr} {is : List Instr} {s t u : State} :
    CommandRun i s t → SessionRun is t u → SessionRun (i :: is) s u

/-- Two answers for each command are enough to run them all. -/
theorem execAll_sessionRun {is : List Instr} {s : State} {n : Nat} (his : ∀ i ∈ is, i.IsCommand) (hacc : Accepts s)
    (hans : Answering (2 * is.length + n) s) :
    ∃ t, execAll is s = .next t ∧ SessionRun is s t ∧ Accepts t ∧ Answering n t := by
  induction is generalizing s with
  | nil => exact ⟨s, rfl, .nil s, hacc, hans.mono (by simp)⟩
  | cons i is ih =>
    obtain ⟨hi, his⟩ := List.forall_mem_cons.mp his
    have hans' : Answering (2 + (2 * is.length + n)) s := hans.mono (by rw [List.length_cons]; omega)
    obtain ⟨t, he, hrun⟩ := exec_commandRun hi hacc
    obtain ⟨u, hall, hsession, haccu, hansu⟩ :=
      ih his (hrun.accepts hi hacc (hans'.mono (Nat.le_add_right 2 _))) (hrun.answering hi hans')
    exact ⟨u, (execAll_cons he).trans hall, .cons hrun hsession, haccu, hansu⟩

theorem SessionRun.pm {is : List Instr} {s t : State} (h : SessionRun is s t) : t.pm = s.pm := by
  induction h with
  | nil s => rfl
  | cons hrun _ ih => exact ih.trans hrun.pm

/-! ### The most recent value of every signal -/

/-- The latch that holds, for every signal, the operand of the most recent operation that set it, and what `l` holds where none
did (`41_latch_write_ops.md` R72). -/
def latestLatch (is : List Instr) (l : Latch) : Latch where
  rs  := ((lastControl is).map Prod.fst).getD l.rs
  rw  := ((lastControl is).map Prod.snd).getD l.rw
  nib := (lastNibble is).getD l.nib
  bl  := (lastBacklight is).getD l.bl

theorem applyOperand_eq_latestLatch (i : Instr) (l : Latch) : applyOperand i l = latestLatch [i] l := by
  cases i <;> rfl

theorem lastControl_append (is js : List Instr) : lastControl (is ++ js) = (lastControl js).or (lastControl is) := by
  simp only [lastControl, List.reverse_append, List.findSome?_append]

theorem lastNibble_append (is js : List Instr) : lastNibble (is ++ js) = (lastNibble js).or (lastNibble is) := by
  simp only [lastNibble, List.reverse_append, List.findSome?_append]

theorem lastBacklight_append (is js : List Instr) :
    lastBacklight (is ++ js) = (lastBacklight js).or (lastBacklight is) := by
  simp only [lastBacklight, List.reverse_append, List.findSome?_append]

/-- Later operations go over the latch that the earlier ones left. -/
theorem latestLatch_append (is js : List Instr) (l : Latch) :
    latestLatch (is ++ js) l = latestLatch js (latestLatch is l) := by
  simp only [latestLatch, lastControl_append, lastNibble_append, lastBacklight_append, Option.map_or, Option.getD_or]

theorem SessionRun.latch {is : List Instr} {s t : State} (h : SessionRun is s t) : t.latch = latestLatch is s.latch := by
  induction h with
  | nil s => rfl
  | @cons i is s t u hrun _ ih =>
    rw [ih, hrun.latch, applyOperand_eq_latestLatch, ← latestLatch_append, List.singleton_append]

/-- Every byte of the last command of a list decomposes to the most recent value of every signal. -/
theorem newEvents_decompose_latest {is : List Instr} {j : Instr} {s : State} (his : ∀ i ∈ is, i.IsCommand)
    (hj : j.IsCommand) (hacc : Accepts s) (hv : s.pm.Valid) (hans : Answering (2 * (is.length + 1)) s) :
    ∃ t u, execAll is s = .next t ∧ exec j t = .next u ∧ newEvents t u ≠ [] ∧
      ∀ e ∈ newEvents t u,
        (decompose s.pm e.byte).rs = (latestLatch (is ++ [j]) s.latch).rs ∧
        (decompose s.pm e.byte).rw = (latestLatch (is ++ [j]) s.latch).rw ∧
        (decompose s.pm e.byte).nib = (latestLatch (is ++ [j]) s.latch).nib ∧
        (decompose s.pm e.byte).bl = (latestLatch (is ++ [j]) s.latch).bl := by
  obtain ⟨t, ht, hsession, hacct, hanst⟩ := execAll_sessionRun his hacc hans
  obtain ⟨u, hu, hrun⟩ := exec_commandRun hj hacct
  refine ⟨t, u, ht, hu, hrun.newEvents_ne_nil hj (hanst.mono one_le_two).nextAnswer_ne, fun e he => ?_⟩
  obtain ⟨en, hbyte⟩ := hrun.byte_eq he
  have hlatch : applyOperand j t.latch = latestLatch (is ++ [j]) s.latch := by
    rw [applyOperand_eq_latestLatch, hsession.latch, latestLatch_append]
  rw [hbyte, hsession.pm, (composeDecomposeInverse s.pm hv).1, hlatch]
  exact ⟨rfl, rfl, rfl, rfl⟩

/-- Where every signal has been set, the first latch is forgotten. -/
theorem latestLatch_eq_of_isSome {is : List Instr} (hc : (lastControl is).isSome = true)
    (hn : (lastNibble is).isSome = true) (hb : (lastBacklight is).isSome = true) (l l' : Latch) :
    latestLatch is l = latestLatch is l' := by
  obtain ⟨c, hc⟩ := Option.isSome_iff_exists.mp hc
  obtain ⟨n, hn⟩ := Option.isSome_iff_exists.mp hn
  obtain ⟨b, hb⟩ := Option.isSome_iff_exists.mp hb
  simp [latestLatch, hc, hn, hb]

/-! ### Two blocks that differ in latch and history -/

/-- Two blocks with one configuration and one transport; their latches, traces, pins and responses may differ. -/
structure SameBus (s s' : State) : Prop where
  addr    : s.addr = s'.addr
  pm      : s.pm = s'.pm
  answers : s.answers = s'.answers
  draws   : s.draws = s'.draws

/-- Which writes a command makes does not depend on the latch. -/
theorem SameBus.writesOf_eq {s s' : State} (h : SameBus s s') (i : Instr) : writesOf i s = writesOf i s' := by
  have h1 : nextAnswer s = nextAnswer s' := by rw [nextAnswer, nextAnswer, h.answers, h.draws]
  have h2 : nextAnswer (takeAnswer s) = nextAnswer (takeAnswer s') := by
    simp only [nextAnswer, takeAnswer_answers, takeAnswer_draws, h.answers, h.draws]
  simp only [writesOf, h1, h2]

theorem SameBus.commandRun {i : Instr} {s s' t t' : State} (hb : SameBus s s') (h : CommandRun i s t)
    (h' : CommandRun i s' t') : SameBus t t' where
  addr := h.writes.addr.trans (hb.addr.trans h'.writes.addr.symm)
  pm := h.pm.trans (hb.pm.trans h'.pm.symm)
  answers := by rw [h.writes.answers, h'.writes.answers, hb.writesOf_eq, hb.answers]
  draws := by rw [h.writes.draws, h'.writes.draws, hb.writesOf_eq, hb.draws]

theorem SameBus.sessionRun {is : List Instr} {s s' t t' : State} (hb : SameBus s s') (h : SessionRun is s t)
    (h' : SessionRun is s' t') : SameBus t t' := by
  induction h generalizing s' with
  | nil s => cases h'; exact hb
  | cons hrun _ ih => cases h' with
    | cons hrun' hrest' => exact ih (hb.commandRun hrun hrun') hrest'

/-- Equal latches on one bus write equal events. -/
theorem SameBus.newEvents_eq {i : Instr} {s s' t t' : State} (hb : SameBus s s') (hl : s.latch = s'.latch)
    (h : CommandRun i s t) (h' : CommandRun i s' t') : newEvents s t = newEvents s' t' := by
  have hevent : eventOf { s with latch := applyOperand i s.latch } = eventOf { s' with latch := applyOperand i s'.latch } :=
    eventOf_congr hb.addr hb.pm (congrArg (applyOperand i) hl)
  rw [h.newEvents_eq, h'.newEvents_eq, hb.writesOf_eq, hevent]

/-! ### The incremental byte -/

theorem bitAt_maskOf_pos {pm : PinMap} (h : pm.Valid) (k : List Signal) (sig : Signal) :
    bitAt (maskOf pm k) (pos pm sig) = decide (sig ∈ k) := by
  rw [bitAt_maskOf, Bool.eq_iff_iff, List.any_eq_true, decide_eq_true_eq]
  constructor
  · rintro ⟨sig', hmem, hpos⟩
    rwa [pos_inj h (of_decide_eq_true hpos)]
  · exact fun hmem => ⟨sig, hmem, decide_eq_true rfl⟩

/-- An operand leaves the level of every other signal. -/
theorem level_applyOperand {i : Instr} {sig : Signal} (h : sig ∉ signalsOf i) (l : Latch) (en : Bool) :
    level ((applyOperand i l).levels en) sig = level (l.levels en) sig := by
  cases i with
  | pulseEnable | configureDefault a | configureOverride a m => rfl
  | setControl rs rw | setDataNibble n | setBacklight on => cases sig <;> simp [signalsOf] at h <;> rfl

/-! ### The results of the operations -/

/-- A latch-writing operation, answered: the whole next state. -/
theorem exec_latchWrite_answered {i : Instr} {s : State} {v : Verdict} (hi : IsLatchWrite i) (hacc : Accepts s)
    (hv : verdictOf (nextAnswer s) = some v) :
    exec i s = .next
      { s with
        latch := applyOperand i s.latch
        trace := s.trace ++ [{ addr := s.addr, byte := compose s.pm ((applyOperand i s.latch).levels false), result := v }]
        mem := memAfter s (compose s.pm ((applyOperand i s.latch).levels false)) (landsOf (nextAnswer s))
        responses := s.responses ++ [statusOf v]
        answers := s.answers.tail
        draws := s.draws + 1 } := by
  rcases exec_accepted (isCommand_of_isLatchWrite hi) hacc with ⟨-, he⟩ | ⟨rfl, -⟩
  · rw [he, latchAndWrite_answered hv, ← hacc.2]
  · exact hi.elim

/-- Construction with a valid PinMap by an idle block. -/
theorem exec_configureOverride_valid {pm : PinMap} {s : State} (a : BusAddr) (hp : s.ph = .idle) (hv : pm.Valid) :
    exec (.configureOverride a pm) s = .next (constructed a pm s) :=
  (if_pos hp).trans (congrArg _ (if_pos hv))

/-! ### The statements -/

/-- Settles O9, signal by signal: one the operation sets is cleared and then has its new level, every other keeps its level. -/
theorem incrementalEqualsRecomputed : Obligations.IncrementalEqualsRecomputed := by
  intro pm i l h _
  refine byte_ext fun q => ?_
  obtain ⟨sig, rfl⟩ := exists_pos_eq h q
  rw [bitAt_or, bitAt_and, bitAt_not, bitAt_compose_pos h, bitAt_compose_pos h, bitAt_maskOf_pos h, bitAt_maskOf_pos h]
  by_cases hsig : sig ∈ signalsOf i
  · simp [hsig]
  · simp [hsig, level_applyOperand hsig]

/-- Settles O11: the opcode selects the operation, and an answered latch-and-write has one next state. -/
theorem setControlResult : Obligations.SetControlResult := by
  refine ⟨fun w hw => ?_, fun rs rw s v hacc hv => exec_latchWrite_answered trivial hacc hv⟩
  have hop : cmdOpcode w = 0b00#2 := hw
  simp [decodeCommand, hop, cmdArg]

/-- Settles O21: answered, whatever the verdict was, the block is idle with the operand in its latch, and there the next operation
starts. -/
theorem noRollbackAfterFailedWrite : Obligations.NoRollbackAfterFailedWrite := by
  intro i s v hi hacc hv
  obtain ⟨t, ht, hrun⟩ := exec_commandRun (isCommand_of_isLatchWrite hi) hacc
  have hwrites := writesOf_latchWrite hi s
  have hne : nextAnswer s ≠ .silent := mt verdictOf_eq_none.mpr (by simp [hv])
  have hacct : Accepts t := ⟨hrun.writes.st.trans hacc.1, hrun.idle (by simp [hwrites, hne])⟩
  refine ⟨t, ht, hrun.latch, by simp [hrun.newEvents_eq, hwrites, eventOf, hv], fun j u hj hu => ?_⟩
  obtain ⟨u', hu', hrun'⟩ := exec_commandRun hj hacct
  obtain rfl : u' = u := by rw [hu'] at hu; injection hu
  rw [← hrun.latch, ← hrun.pm]
  exact ⟨hrun'.latch, fun e => hrun'.byte_eq⟩

/-- Settles O50: construction leaves an accepting block with the reset latch and the answers as they were. -/
theorem signalIndependence : Obligations.SignalIndependence := by
  refine ⟨fun a pm is j s0 hp hv his hj hans => ?_, fun is j s => newEvents_decompose_latest⟩
  obtain ⟨t, u, hrun⟩ := newEvents_decompose_latest (s := constructed a pm s0) his hj ⟨rfl, rfl⟩ hv hans
  exact ⟨_, t, u, exec_configureOverride_valid a hp hv, hrun⟩

/-- Settles O51: both runs take the same answers, and end with the latch of the most recent operands. -/
theorem firstLatchValuesAreForgotten : Obligations.FirstLatchValuesAreForgotten := by
  intro is j s l his hj hacc hans hc hn hb
  obtain ⟨t, ht, hsession, hacct, -⟩ := execAll_sessionRun his hacc hans
  obtain ⟨t', ht', hsession', hacct', -⟩ := execAll_sessionRun (s := { s with latch := l }) his hacc hans
  obtain ⟨u, hu, hrun⟩ := exec_commandRun hj hacct
  obtain ⟨u', hu', hrun'⟩ := exec_commandRun hj hacct'
  have hlatch : t.latch = t'.latch := by
    rw [hsession.latch, hsession'.latch]
    exact latestLatch_eq_of_isSome hc hn hb _ _
  have hstart : SameBus s { s with latch := l } := ⟨rfl, rfl, rfl, rfl⟩
  have hbus : SameBus t t' := hstart.sessionRun hsession hsession'
  exact ⟨t, t', u, u', ht, ht', hlatch, hu, hu', hbus.newEvents_eq hlatch hrun hrun'⟩

end Sys2Proof.Machine

/-! PROOFS. Every operation as a run of issue steps of the sequencer, which the enable strobe, the agreement of the two machines and
the waits of the transport are read off; and the two bytes of a pulse. -/

namespace Sys2Proof.Machine

/-! ### The two bytes of a pulse -/

/-- The enable level touches no other signal. -/
theorem level_levels_of_ne {sig : Signal} (h : sig ≠ .e) (l : Latch) (en en' : Bool) :
    level (l.levels en) sig = level (l.levels en') sig := by
  cases sig with
  | e => exact absurd rfl h
  | rs | rw | d4 | d5 | d6 | d7 | bl => rfl

/-- Under a valid PinMap the enable bit of the composed byte is the enable level. -/
theorem bitAt_compose_levels_e {pm : PinMap} (h : pm.Valid) (l : Latch) (en : Bool) :
    bitAt (compose pm (l.levels en)) pm.e = en :=
  bitAt_compose_pos h (l.levels en) .e

/-- A bit of the two bytes of a pulse is the enable bit, 1 and then 0 and set in the enable mask, or the same in both and not set in
the mask. -/
theorem bitAt_high_low_mask {pm : PinMap} (h : pm.Valid) (l : Latch) (q : Position) :
    (bitAt (compose pm (l.levels true)) q = true ∧ bitAt (compose pm (l.levels false)) q = false ∧
      bitAt (mask pm .e) q = true) ∨
    (bitAt (compose pm (l.levels true)) q = bitAt (compose pm (l.levels false)) q ∧ bitAt (mask pm .e) q = false) := by
  obtain ⟨sig, rfl⟩ := exists_pos_eq h q
  rw [bitAt_compose_pos h, bitAt_compose_pos h, bitAt_mask]
  by_cases hsig : sig = .e
  · subst hsig
    exact .inl ⟨rfl, rfl, decide_eq_true rfl⟩
  · exact .inr ⟨level_levels_of_ne hsig l true false, decide_eq_false (mt (pos_inj h) hsig)⟩

theorem compose_high_eq_low_or_mask {pm : PinMap} (h : pm.Valid) (l : Latch) :
    compose pm (l.levels true) = compose pm (l.levels false) ||| mask pm .e := by
  refine byte_ext fun q => ?_
  rw [bitAt_or]
  rcases bitAt_high_low_mask h l q with ⟨hhigh, hlow, hmask⟩ | ⟨heq, hmask⟩ <;> simp [*]

theorem compose_low_eq_high_and_not_mask {pm : PinMap} (h : pm.Valid) (l : Latch) :
    compose pm (l.levels false) = compose pm (l.levels true) &&& ~~~(mask pm .e) := by
  refine byte_ext fun q => ?_
  rw [bitAt_and, bitAt_not]
  rcases bitAt_high_low_mask h l q with ⟨hhigh, hlow, hmask⟩ | ⟨heq, hmask⟩ <;> simp [*]

theorem bitAt_xor (a b : Byte) (p : Position) : bitAt (a ^^^ b) p = (bitAt a p ^^ bitAt b p) := BitVec.getLsbD_xor

theorem compose_high_xor_low {pm : PinMap} (h : pm.Valid) (l : Latch) :
    compose pm (l.levels true) ^^^ compose pm (l.levels false) = mask pm .e := by
  refine byte_ext fun q => ?_
  rw [bitAt_xor]
  rcases bitAt_high_low_mask h l q with ⟨hhigh, hlow, hmask⟩ | ⟨heq, hmask⟩ <;> simp [*]

/-! ### Operations as issue steps -/

theorem issueRun_eq_iterate (n : Nat) (s : State) : issueRun n s = issue^[n] s := by
  induction n generalizing s with
  | zero => rfl
  | succ n ih =>
    by_cases hp : s.ph = .idle
    · rw [Function.iterate_fixed (issue_idle hp)]; exact if_pos hp
    · rw [Function.iterate_succ_apply, ← ih]; exact if_neg hp

/-! A change of phase is seen by nothing but the issue step: not by the transport, the byte or the write, and the answer to the host
and the next change of phase go over it. -/

@[simp] theorem nextAnswer_waitIn (p : Phase) (s : State) : nextAnswer (waitIn p s) = nextAnswer s := rfl
@[simp] theorem outByte_waitIn (p : Phase) (s : State) (en : Bool) : outByte (waitIn p s) en = outByte s en := rfl
@[simp] theorem busWrite_waitIn (p : Phase) (b : Byte) (s : State) : busWrite b (waitIn p s) = waitIn p (busWrite b s) := rfl
@[simp] theorem returnOk_waitIn (p : Phase) (s : State) : returnOk (waitIn p s) = returnOk s := rfl
@[simp] theorem raiseBusError_waitIn (p : Phase) (x : TransportError) (s : State) :
    raiseBusError x (waitIn p s) = raiseBusError x s := rfl
@[simp] theorem waitIn_waitIn (p q : Phase) (s : State) : waitIn p (waitIn q s) = waitIn p s := rfl

theorem latchAndWrite_eq_issue (l : Latch) (s : State) :
    latchAndWrite l s = issue (waitIn .write { s with latch := l }) := by
  rcases latchAndWrite_cases l s with ⟨ha, he⟩ | ⟨x, landed, ha, he⟩ | ⟨ha, he⟩ <;> rw [he] <;>
    simp [issue, ha, afterWrite, enableOf]

theorem pulseLow_eq_issue (s : State) : pulseLow s = issue (waitIn .pulseLo s) := by
  rcases pulseLow_cases s with ⟨ha, he⟩ | ⟨y, landed, ha, he⟩ | ⟨ha, he⟩ <;> rw [he] <;>
    simp [issue, ha, afterWrite, enableOf]

/-- A successful enable-high write leaves the enable-low write pending. -/
theorem issue_pulseHi_ok {s : State} (ha : nextAnswer s = .ok) :
    issue (waitIn .pulseHi s) = waitIn .pulseLo (busWrite (outByte s true) s) := by
  simp [issue, ha, afterWrite, enableOf]

/-- A pulse is one issue step for each of its writes. -/
theorem pulse_eq_iterate_issue (s : State) :
    pulse s = issue^[(writesOf .pulseEnable s).length] (waitIn .pulseHi s) := by
  rcases pulse_cases s with ⟨ha, he⟩ | ⟨x, landed, ha, he⟩ | ⟨ha, he⟩ <;> rw [he]
  · rw [writesOf_pulse_ok ha, pulseLow_eq_issue]
    simp [issue_pulseHi_ok ha]
  · rw [writesOf_pulse_not_ok (by simp [ha])]
    simp [issue, ha, afterWrite, enableOf]
  · rw [writesOf_pulse_not_ok (by simp [ha])]
    simp [issue, ha, enableOf]

theorem accept_latchWrite {i : Instr} (hi : IsLatchWrite i) (s : State) :
    accept i s = waitIn .write { s with latch := applyOperand i s.latch } := by
  cases i with
  | setControl rs rw | setDataNibble n | setBacklight on => rfl
  | pulseEnable | configureDefault a | configureOverride a m => exact hi.elim

theorem accept_busy {i : Instr} (hi : i.IsCommand) (s : State) : (accept i s).ph ≠ .idle := by
  cases i with
  | setControl rs rw | setDataNibble n | setBacklight on | pulseEnable => simp [accept]
  | configureDefault a | configureOverride a m => exact hi.elim

/-- An accepting block runs a command as the sequencer does: it accepts it and makes one issue step for each of its writes
(`42_pulse_enable.md` R83). -/
theorem exec_eq_iterate_issue {i : Instr} {s : State} (hi : i.IsCommand) (hacc : Accepts s) :
    exec i s = .next (issue^[(writesOf i s).length] (accept i s)) := by
  rcases exec_accepted hi hacc with ⟨hw, he⟩ | ⟨rfl, he⟩ <;> rw [he]
  · rw [writesOf_latchWrite hw, accept_latchWrite hw, latchAndWrite_eq_issue]; rfl
  · rw [pulse_eq_iterate_issue]; rfl

/-- Where the transport answers, two issue steps or more bring a command to its end, and none of them is too many. -/
theorem exec_eq_iterate_issue_of_le {i : Instr} {s : State} {k : Nat} (hi : i.IsCommand) (hacc : Accepts s)
    (hans : Answering 2 s) (hk : 2 ≤ k) :
    exec i s = .next (issue^[k] (accept i s)) ∧ (issue^[k] (accept i s)).ph = .idle := by
  obtain ⟨t, ht, hrun⟩ := exec_commandRun hi hacc
  have hidle : t.ph = .idle := hrun.idle (writesOf_answered hi hans)
  have hrunt : issue^[(writesOf i s).length] (accept i s) = t := by
    rw [exec_eq_iterate_issue hi hacc] at ht; injection ht
  obtain ⟨d, rfl⟩ := Nat.exists_eq_add_of_le' ((length_writesOf_le (s := s) hi).trans hk)
  rw [Function.iterate_add_apply, hrunt, Function.iterate_fixed (issue_idle hidle)]
  exact ⟨ht, hidle⟩

/-! ### The strobe -/

/-- The shape looks at the trace and the PinMap only, except where the last write raised the enable line. -/
theorem StrobeShape.of_ph_ne {s t : State} (hs : StrobeShape s) (hp : s.ph ≠ .pulseLo) (hpm : t.pm = s.pm)
    (ht : t.trace = s.trace) : StrobeShape t := by
  obtain ⟨hchain, hlast⟩ := hs
  rw [StrobeShape, hpm, ht]
  exact ⟨hchain, fun e he hstrobe => absurd (hlast e he hstrobe).1 hp⟩

/-- One more write of the held latch keeps the shape, if its enable is low where an enable-low byte is pending, and if it raises the
enable line only to leave its own enable-low byte pending. -/
theorem StrobeShape.append {s t : State} (hs : StrobeShape s) (en : Bool) (v : Verdict) (hv : s.pm.Valid)
    (hf : WriteFrame s t) (ht : t.trace = s.trace ++ [{ addr := s.addr, byte := outByte s en, result := v }])
    (hlow : s.ph = .pulseLo → en = false) (hhigh : v = .ok → en = true → t.ph = .pulseLo) : StrobeShape t := by
  obtain ⟨hchain, hlast⟩ := hs
  rw [StrobeShape, outByte, hf.pm, hf.latch, ht]
  constructor
  · refine List.isChain_append.mpr ⟨hchain, List.isChain_singleton _, fun d hd e he hstrobe => ?_⟩
    obtain rfl : _ = e := by simpa using he
    obtain ⟨hp, hbyte⟩ := hlast d hd hstrobe
    rw [hlow hp, hbyte]
    exact compose_low_eq_high_and_not_mask hv s.latch
  · rintro e he ⟨hok, hbit⟩
    obtain rfl : _ = e := by simpa using he
    obtain rfl : en = true := (bitAt_compose_levels_e hv s.latch en).symm.trans hbit
    exact ⟨hhigh hok rfl, rfl⟩

theorem issue_keeps_strobeShape {s : State} (hs : StrobeShape s) (hv : s.pm.Valid) : StrobeShape (issue s) := by
  by_cases hp : s.ph = .idle
  · rwa [issue_idle hp]
  have hf := issue_frame s
  rcases issue_cases hp with ⟨ha, he⟩ | ⟨ha, hhi, he⟩ | ⟨ha, -, he⟩ | ⟨x, landed, ha, he⟩ <;> rw [he] at hf ⊢
  · have htrace : (busWrite (outByte s (enableOf s.ph)) s).trace = s.trace := by simp [ha]
    rw [StrobeShape, htrace]
    exact hs
  · exact hs.append true .ok hv hf (by simp [ha]) (fun hlo => by simp [hhi] at hlo) fun _ _ => rfl
  · exact hs.append false .ok hv hf (by simp [ha]) (fun _ => rfl) fun _ hen => by cases hen
  · exact hs.append (enableOf s.ph) (.err x) hv hf (by simp [ha]) (fun hlo => by rw [hlo]; rfl) fun hok _ => by cases hok

theorem iterate_issue_keeps_strobeShape {s : State} (n : Nat) (hs : StrobeShape s) (hv : s.pm.Valid) :
    StrobeShape (issue^[n] s) := by
  induction n generalizing s with
  | zero => exact hs
  | succ n ih => exact ih (issue_keeps_strobeShape hs hv) ((issue_frame s).pm ▸ hv)

/-- An operation of an idle block starts where no enable-low byte is pending, and is a run of issue steps or a construction. -/
theorem exec_keeps_strobeShape {i : Instr} {s t : State} (hp : s.ph = .idle) (hv : s.pm.Valid) (hs : StrobeShape s)
    (h : exec i s = .next t) : StrobeShape t := by
  have hp' : s.ph ≠ .pulseLo := by simp [hp]
  rcases exec_cases h with ⟨-, hbusy, -⟩ | ⟨-, -, -, rfl⟩ | ⟨l, -, -, -, rfl⟩ | ⟨-, -, -, rfl⟩ | ⟨a, m, -, -, -, rfl⟩ |
    ⟨-, -, rfl⟩
  · exact absurd hp hbusy
  · exact hs
  · rw [latchAndWrite_eq_issue]
    exact issue_keeps_strobeShape (hs.of_ph_ne hp' rfl rfl) hv
  · rw [pulse_eq_iterate_issue]
    exact iterate_issue_keeps_strobeShape _ (hs.of_ph_ne hp' rfl rfl) hv
  · simp [StrobeShape]
  · exact hs.of_ph_ne hp' rfl rfl

/-! ### Waiting -/

/-- The state in which the transport will be silent `n` times before it goes on with the fixed answers (log 5, 6). -/
def withSilence (n : Nat) (s : State) : State := { s with answers := List.replicate n .silent ++ s.answers }

/-- The state but for `n` more answers taken (log 5). -/
def drawsLater (n : Nat) (s : State) : State := { s with draws := s.draws + n }

theorem accept_withSilence (i : Instr) (n : Nat) (s : State) : accept i (withSilence n s) = withSilence n (accept i s) := by
  cases i <;> rfl

theorem accept_answers (i : Instr) (s : State) : (accept i s).answers = s.answers := by cases i <;> rfl

theorem accept_trace (i : Instr) (s : State) : (accept i s).trace = s.trace := by cases i <;> rfl

theorem accept_responses (i : Instr) (s : State) : (accept i s).responses = s.responses := by cases i <;> rfl

theorem drawsLater_drawsLater (m n : Nat) (s : State) : drawsLater m (drawsLater n s) = drawsLater (n + m) s := by
  simp [drawsLater, Nat.add_assoc]

theorem drawsLater_withSilence (m n : Nat) (s : State) :
    drawsLater n (withSilence m s) = withSilence m (drawsLater n s) := rfl

/-- Every issue step of a busy block takes one answer. -/
theorem issue_takes_answer {s : State} (h : s.ph ≠ .idle) :
    (issue s).answers = s.answers.tail ∧ (issue s).draws = s.draws + 1 := by
  rcases issue_cases h with ⟨-, he⟩ | ⟨-, -, he⟩ | ⟨-, -, he⟩ | ⟨x, landed, -, he⟩ <;> rw [he] <;> exact ⟨rfl, rfl⟩

/-- An issue step sees the first of the fixed answers only: neither those behind it nor the count of those taken. -/
theorem issue_first_answer {s : State} {a : Answer} {as : List Answer} (h : s.ph ≠ .idle) (has : s.answers = a :: as)
    (bs : List Answer) (d : Nat) :
    issue { s with answers := a :: bs, draws := d } = { issue s with answers := bs, draws := d + 1 } := by
  obtain ⟨addr, pm, st, latch, ph, trace, mem, responses, requests, answers, draws⟩ := s
  obtain rfl : answers = a :: as := has
  cases ph with
  | idle => exact absurd rfl h
  | write | pulseHi | pulseLo => cases a <;> rfl

/-- An issue step that meets a silence stays where it is (`20_memory.md` R39). -/
theorem issue_withSilence_succ (n : Nat) {s : State} (h : s.ph ≠ .idle) :
    issue (withSilence (n + 1) s) = withSilence n (drawsLater 1 s) := by
  rcases issue_cases (s := withSilence (n + 1) s) h with ⟨-, he⟩ | ⟨ha, -⟩ | ⟨ha, -⟩ | ⟨x, landed, ha, -⟩
  · rw [he]; rfl
  · cases ha
  · cases ha
  · cases ha

theorem iterate_issue_withSilence (n : Nat) {s : State} (h : s.ph ≠ .idle) :
    issue^[n] (withSilence n s) = drawsLater n s := by
  induction n generalizing s with
  | zero => rfl
  | succ n ih =>
    rw [Function.iterate_succ_apply, issue_withSilence_succ n h, ih (s := drawsLater 1 s) h, drawsLater_drawsLater,
      Nat.add_comm]

/-- The count of answers taken has no part in an issue step whose answer is fixed. -/
theorem issue_drawsLater (n : Nat) {s : State} (h : s.answers ≠ []) : issue (drawsLater n s) = drawsLater n (issue s) := by
  by_cases hp : s.ph = .idle
  · rw [issue_idle hp, issue_idle (s := drawsLater n s) hp]
  · obtain ⟨a, as, has⟩ := List.exists_cons_of_ne_nil h
    have hstep := issue_first_answer hp has as (s.draws + n)
    obtain ⟨hanswers, hdraws⟩ := issue_takes_answer hp
    rw [has, List.tail_cons] at hanswers
    rw [← has, ← hanswers] at hstep
    refine hstep.trans ?_
    rw [drawsLater, hdraws, Nat.add_right_comm]

/-- A write that met `n` silences ends as it would have ended at once, but for the count of answers taken. -/
theorem iterate_issue_wait (n : Nat) {s : State} (h : s.ph ≠ .idle) (hans : s.answers ≠ []) :
    issue^[n + 1] (withSilence n s) = drawsLater n (issue s) := by
  rw [Function.iterate_succ_apply', iterate_issue_withSilence n h, issue_drawsLater n hans]

/-! ### Operations that wait -/

/-- The state in which the next write succeeds and the one after it meets `n` silences before the second fixed answer (log 5, 6). -/
def okThenSilence (n : Nat) (s : State) : State :=
  { s with answers := .ok :: (List.replicate n .silent ++ s.answers.tail) }

theorem issue_okThenSilence (n : Nat) {s : State} (h : s.ph ≠ .idle) (hans : s.answers ≠ []) (hok : nextAnswer s = .ok) :
    issue (okThenSilence n s) = withSilence n (issue s) := by
  obtain ⟨a, as, has⟩ := List.exists_cons_of_ne_nil hans
  obtain rfl : a = .ok := (nextAnswer_cons has).symm.trans hok
  have hstep := issue_first_answer h has (List.replicate n .silent ++ s.answers.tail) s.draws
  obtain ⟨hanswers, hdraws⟩ := issue_takes_answer h
  rw [← hdraws, ← hanswers] at hstep
  rw [okThenSilence, ← hanswers]
  exact hstep

/-- Two writes that each meet silences end as they would have ended at once. -/
theorem iterate_issue_wait_twice (n m : Nat) {s : State} (h : s.ph ≠ .idle) (h' : (issue s).ph ≠ .idle)
    (hans : s.answers ≠ []) (hans' : (issue s).answers ≠ []) (hok : nextAnswer s = .ok) :
    issue^[n + m + 2] (withSilence n (okThenSilence m s)) = drawsLater (n + m) (issue (issue s)) :=
  calc issue^[n + m + 2] (withSilence n (okThenSilence m s))
      = issue^[m + 1] (issue^[n + 1] (withSilence n (okThenSilence m s))) := by
        rw [← Function.iterate_add_apply, show n + m + 2 = m + 1 + (n + 1) by omega]
    _ = issue^[m + 1] (drawsLater n (issue (okThenSilence m s))) := by
        rw [iterate_issue_wait (s := okThenSilence m s) n h (List.cons_ne_nil _ _)]
    _ = issue^[m + 1] (withSilence m (drawsLater n (issue s))) := by
        rw [issue_okThenSilence m h hans hok, drawsLater_withSilence]
    _ = drawsLater (n + m) (issue (issue s)) := by
        rw [iterate_issue_wait (s := drawsLater n (issue s)) m h' hans', issue_drawsLater n hans', drawsLater_drawsLater]

/-- Two fixed answers give each of two writes its own. -/
theorem Answering.answers_ne_nil {i : Instr} {s : State} (h : Answering 2 s) (hi : i.IsCommand) :
    (accept i s).answers ≠ [] ∧ (issue (accept i s)).answers ≠ [] := by
  rw [(issue_takes_answer (accept_busy hi s)).1, accept_answers]
  constructor <;> rw [← List.length_pos_iff_ne_nil]
  · exact Nat.lt_of_lt_of_le Nat.zero_lt_two h.1
  · rw [List.length_tail]; exact Nat.sub_pos_of_lt h.1

/-- A command whose first write is unanswered waits at that write. -/
theorem exec_silent {i : Instr} {s : State} (hi : i.IsCommand) (hacc : Accepts s) (ha : nextAnswer s = .silent) :
    exec i s = .next (issue (accept i s)) := by
  have hlength : (writesOf i s).length = 1 := by
    cases i with
    | setControl rs rw | setDataNibble n | setBacklight on => rfl
    | pulseEnable => rw [writesOf_pulse_not_ok (by simp [ha])]; rfl
    | configureDefault a | configureOverride a m => exact hi.elim
  rw [exec_eq_iterate_issue hi hacc, hlength]
  rfl

/-- A pulse whose first write succeeds goes on to its second one. -/
theorem exec_pulse_ok {s : State} (hacc : Accepts s) (hok : nextAnswer s = .ok) :
    exec .pulseEnable s = .next (issue (issue (accept .pulseEnable s))) := by
  rw [exec_eq_iterate_issue trivial hacc, writesOf_pulse_ok hok]
  rfl

theorem exec_waits_at_first_write {i : Instr} {s : State} (n : Nat) (hi : i.IsCommand) (hacc : Accepts s)
    (hans : Answering 2 s) :
    ∃ u t, exec i (withSilence (n + 1) s) = .next u ∧ u.ph ≠ .idle ∧ u.trace = s.trace ∧ u.responses = s.responses ∧
      exec i s = .next t ∧ issueRun (n + 2) u = drawsLater (n + 1) t := by
  have hbusy := accept_busy hi s
  obtain ⟨hfirst, hsecond⟩ := hans.answers_ne_nil hi
  have hu : exec i (withSilence (n + 1) s) = .next (issue (withSilence (n + 1) (accept i s))) := by
    rw [exec_silent (s := withSilence (n + 1) s) hi hacc rfl, accept_withSilence]
  have hwait := issue_withSilence_succ n hbusy
  refine ⟨_, _, hu, hwait ▸ hbusy, hwait ▸ accept_trace i s, hwait ▸ accept_responses i s,
    (exec_eq_iterate_issue_of_le hi hacc hans le_rfl).1, ?_⟩
  calc issueRun (n + 2) (issue (withSilence (n + 1) (accept i s)))
      = issue (issue^[n + 2] (withSilence (n + 1) (accept i s))) := by
        rw [issueRun_eq_iterate, ← Function.iterate_succ_apply, Function.iterate_succ_apply']
    _ = issue (drawsLater (n + 1) (issue (accept i s))) := by rw [iterate_issue_wait (n + 1) hbusy hfirst]
    _ = drawsLater (n + 1) (issue (issue (accept i s))) := issue_drawsLater (n + 1) hsecond

/-- A pulse that is accepted and whose first write succeeds has its second one pending. -/
theorem issue_accept_pulse_ok {s : State} (hok : nextAnswer s = .ok) :
    issue (accept .pulseEnable s) = waitIn .pulseLo (busWrite (outByte s true) s) := issue_pulseHi_ok hok

section
variable {s : State} (hacc : Accepts s) (hans : Answering 2 s) (hok : nextAnswer s = .ok)
include hacc hans hok

theorem pulse_waits_at_second_write (n : Nat) :
    ∃ u t, exec .pulseEnable (okThenSilence (n + 1) s) = .next u ∧ u.ph = .pulseLo ∧
      u.trace = s.trace ++ [{ addr := s.addr, byte := outByte s true, result := .ok }] ∧ u.responses = s.responses ∧
      exec .pulseEnable s = .next t ∧ issueRun (n + 1) u = drawsLater (n + 1) t := by
  obtain ⟨hfirst, hsecond⟩ := hans.answers_ne_nil (i := .pulseEnable) trivial
  have hhigh := issue_accept_pulse_ok hok
  have hbusy : (issue (accept .pulseEnable s)).ph ≠ .idle := by simp [hhigh]
  have hmid : issue (accept .pulseEnable (okThenSilence (n + 1) s)) =
      withSilence (n + 1) (issue (accept .pulseEnable s)) :=
    issue_okThenSilence (n + 1) (accept_busy (i := .pulseEnable) trivial s) hfirst hok
  have hu := exec_pulse_ok (s := okThenSilence (n + 1) s) hacc rfl
  have hwait := issue_withSilence_succ n hbusy
  rw [hmid] at hu
  refine ⟨_, _, hu, ?_, ?_, ?_, exec_pulse_ok hacc hok, ?_⟩
  · rw [hwait, hhigh]; rfl
  · rw [hwait, hhigh]; simp [withSilence, drawsLater, hok]
  · rw [hwait, hhigh]; rfl
  · rw [issueRun_eq_iterate, ← Function.iterate_succ_apply]
    exact iterate_issue_wait (n + 1) hbusy hsecond

theorem pulse_waits_at_both_writes (n m : Nat) :
    ∃ u t, exec .pulseEnable (withSilence n (okThenSilence m s)) = .next u ∧ exec .pulseEnable s = .next t ∧
      issueRun (n + m + 2) u = drawsLater (n + m) t := by
  obtain ⟨hfirst, hsecond⟩ := hans.answers_ne_nil (i := .pulseEnable) trivial
  obtain ⟨-, hidle⟩ := exec_eq_iterate_issue_of_le (i := .pulseEnable) trivial hacc hans le_rfl
  have hbusy : (issue (accept .pulseEnable s)).ph ≠ .idle := by simp [issue_accept_pulse_ok hok]
  have hrun : issue^[n + m + 2] (accept .pulseEnable (withSilence n (okThenSilence m s))) =
      drawsLater (n + m) (issue (issue (accept .pulseEnable s))) :=
    iterate_issue_wait_twice n m (accept_busy (i := .pulseEnable) trivial s) hbusy hfirst hsecond hok
  refine ⟨_, _, exec_eq_iterate_issue trivial hacc, exec_pulse_ok hacc hok, ?_⟩
  rw [issueRun_eq_iterate, ← Function.iterate_add_apply, Nat.add_comm, Function.iterate_add_apply, hrun]
  exact Function.iterate_fixed (issue_idle (s := drawsLater (n + m) (issue (issue (accept .pulseEnable s)))) hidle) _

end

/-! ### The statements -/

/-- Settles O45: a step is an issue step, a run of them that starts with no enable-low byte pending, or a construction. -/
theorem stepKeepsStrobeShape : Obligations.StepKeepsStrobeShape := by
  intro s t hc hs h
  rcases step_cases h with ⟨-, rfl⟩ | ⟨-, -, rfl⟩ | ⟨r, rest, hp, -, he⟩
  · exact issue_keeps_strobeShape hs hc.1
  · exact hs
  · exact exec_keeps_strobeShape (s := { s with requests := rest }) hp hc.1 hs he

/-- Settles O15, from the bits of the two bytes. -/
theorem pulseBytesDifferInEnableOnly : Obligations.PulseBytesDifferInEnableOnly := by
  intro pm l h
  have hdecompose := (composeDecomposeInverse pm h).1
  exact ⟨compose_high_eq_low_or_mask h l, compose_low_eq_high_and_not_mask h l, compose_high_xor_low h l, hdecompose _,
    hdecompose _⟩

/-- Settles O16: the first write is the only one, and its byte has landed or not. -/
theorem failedFirstPulseWriteAborts : Obligations.FailedFirstPulseWriteAborts := by
  intro s x landed hacc ha
  have hrun : pulse s = raiseBusError x (busWrite (outByte s true) s) := by simp [pulse, ha]
  refine ⟨pulse s, command_accepts hacc, ?_⟩
  rw [hrun]
  refine ⟨rfl, by rw [raiseBusError_trace, busWrite_trace, ha]; rfl, rfl, rfl, ?_⟩
  cases landed with
  | false => exact .inl (by simp [State.pins, ha])
  | true => exact .inr (by rw [State.pins, raiseBusError_mem, busWrite_mem, ha]; exact memAfter_landed s _)

/-- Settles O48: two fixed answers are enough for the writes of any command. -/
theorem bigStepAgreesWithSequencer : Obligations.BigStepAgreesWithSequencer := by
  intro i s k hi hacc hans hk
  rw [issueRun_eq_iterate]
  exact exec_eq_iterate_issue_of_le hi hacc hans hk

/-- Settles O49: silences only delay the write they come before. -/
theorem waitingOperationEndsTheSame : Obligations.WaitingOperationEndsTheSame :=
  ⟨fun _ _ n hi hacc hans => exec_waits_at_first_write n hi hacc hans,
    fun _ n hacc hans hok => pulse_waits_at_second_write hacc hans hok n,
    fun _ n m hacc hans hok => pulse_waits_at_both_writes hacc hans hok n m⟩

end Sys2Proof.Machine

/-! PROOFS. How a command ends: its last write, what came before it, and the answer to the host; construction that fails; and the
renaming of the transport's error values through the issue steps. -/

namespace Sys2Proof.Machine

/-! ### The last write of a command -/

theorem busWrite_trace_answered {b : Byte} {s : State} {v : Verdict} (h : verdictOf (nextAnswer s) = some v) :
    (busWrite b s).trace = s.trace ++ [{ addr := s.addr, byte := b, result := v }] := by
  rw [busWrite_trace, h, traceAfter_some]

/-- `t` comes out of `u` by the last write of a command: answered, the host has its verdict and the block is idle; unanswered,
the block stays in a busy phase. -/
inductive LastWrite (b : Byte) (u : State) : State → Prop
  | answered {v : Verdict} : verdictOf (nextAnswer u) = some v → LastWrite b u (respond (statusOf v) (busWrite b u))
  | unanswered {p : Phase} : nextAnswer u = .silent → p ≠ .idle → LastWrite b u (waitIn p (busWrite b u))

/-- The states in which an accepted command makes its last write: with its operand in the latch, or after the successful first
write of a pulse (`42_pulse_enable.md` R80). -/
inductive BeforeLastWrite (i : Instr) (s : State) : State → Prop
  | only : BeforeLastWrite i s { s with latch := applyOperand i s.latch }
  | second : i = .pulseEnable → nextAnswer s = .ok → BeforeLastWrite i s (busWrite (outByte s true) s)

theorem latchAndWrite_lastWrite (l : Latch) (s : State) :
    ∃ b, LastWrite b { s with latch := l } (latchAndWrite l s) := by
  have hnext : nextAnswer { s with latch := l } = nextAnswer s := nextAnswer_latch l s
  rcases latchAndWrite_cases l s with ⟨ha, he⟩ | ⟨x, landed, ha, he⟩ | ⟨ha, he⟩ <;> rw [he] <;> rw [← hnext] at ha
  · exact ⟨_, .answered (verdictOf_eq_ok.mpr ha)⟩
  · exact ⟨_, .answered (verdictOf_eq_err.mpr ⟨landed, ha⟩)⟩
  · exact ⟨_, .unanswered ha (by decide)⟩

theorem pulseLow_lastWrite (s : State) : ∃ b, LastWrite b s (pulseLow s) := by
  rcases pulseLow_cases s with ⟨ha, he⟩ | ⟨y, landed, ha, he⟩ | ⟨ha, he⟩ <;> rw [he]
  · exact ⟨_, .answered (verdictOf_eq_ok.mpr ha)⟩
  · exact ⟨_, .answered (verdictOf_eq_err.mpr ⟨landed, ha⟩)⟩
  · exact ⟨_, .unanswered ha (by decide)⟩

theorem pulse_lastWrite (s : State) : ∃ u b, BeforeLastWrite .pulseEnable s u ∧ LastWrite b u (pulse s) := by
  rcases pulse_cases s with ⟨ha, he⟩ | ⟨x, landed, ha, he⟩ | ⟨ha, he⟩ <;> rw [he]
  · obtain ⟨b, hlast⟩ := pulseLow_lastWrite (busWrite (outByte s true) s)
    exact ⟨_, b, .second rfl ha, hlast⟩
  · exact ⟨_, _, .only, .answered (verdictOf_eq_err.mpr ⟨landed, ha⟩)⟩
  · exact ⟨_, _, .only, .unanswered ha (by decide)⟩

/-- Every command of an accepting block has a last write. -/
theorem exec_lastWrite {i : Instr} {s t : State} (hi : i.IsCommand) (hacc : Accepts s) (h : exec i s = .next t) :
    ∃ u b, BeforeLastWrite i s u ∧ LastWrite b u t := by
  rcases exec_accepted hi hacc with ⟨-, he⟩ | ⟨rfl, he⟩ <;> rw [he] at h <;> injection h with h <;> subst h
  · obtain ⟨b, hlast⟩ := latchAndWrite_lastWrite (applyOperand i s.latch) s
    exact ⟨_, b, .only, hlast⟩
  · exact pulse_lastWrite s

/-- Before the last write the host has had no answer, and what was written has succeeded. -/
theorem BeforeLastWrite.history {i : Instr} {s u : State} (h : BeforeLastWrite i s u) :
    u.responses = s.responses ∧ ∃ es, u.trace = s.trace ++ es ∧ ∀ e ∈ es, e.result = .ok := by
  cases h with
  | only => exact ⟨rfl, [], by simp⟩
  | second _ ha => exact ⟨rfl, [{ addr := s.addr, byte := outByte s true, result := .ok }], by simp [ha]⟩

/-- How a command ends for the host: idle with the verdict of the last write, every write before it having succeeded; or busy
without a response, no write having failed. -/
theorem exec_ends {i : Instr} {s t : State} (hi : i.IsCommand) (hacc : Accepts s) (h : exec i s = .next t) :
    ∃ es : List BusEvent, (∀ e ∈ es, e.result = .ok) ∧
      ((∃ e : BusEvent, t.ph = .idle ∧ t.responses = s.responses ++ [statusOf e.result] ∧ newEvents s t = es ++ [e]) ∨
        (t.ph ≠ .idle ∧ t.responses = s.responses ∧ newEvents s t = es)) := by
  obtain ⟨u, b, hbefore, hlast⟩ := exec_lastWrite hi hacc h
  obtain ⟨hresponses, es, htrace, hes⟩ := hbefore.history
  refine ⟨es, hes, ?_⟩
  cases hlast with
  | @answered v hv =>
    refine .inl ⟨{ addr := u.addr, byte := b, result := v }, rfl, by simp [hresponses], ?_⟩
    rw [newEvents, respond_trace, busWrite_trace_answered hv, htrace, List.append_assoc, List.drop_left]
  | unanswered ha hp =>
    refine .inr ⟨hp, by simp [hresponses], ?_⟩
    simp [newEvents, ha, htrace]

theorem statusOf_eq_ok {v : Verdict} : statusOf v = .ok ↔ v = .ok := by cases v <;> simp [statusOf]

theorem statusOf_eq_busError {v : Verdict} {x : TransportError} : statusOf v = .busError x ↔ v = .err x := by
  cases v <;> simp [statusOf]

theorem statusOf_ne_configError (v : Verdict) : statusOf v ≠ .configError := by cases v <;> simp [statusOf]

/-- A bus write leaves the pins as they were or puts its byte on them (`20_memory.md` R32). -/
theorem busWrite_pins (b : Byte) (s : State) : (busWrite b s).pins = s.pins ∨ (busWrite b s).pins = b := by
  rw [State.pins, busWrite_mem]
  cases landsOf (nextAnswer s) with
  | false => exact .inl rfl
  | true => exact .inr (memAfter_landed s b)

/-! ### Commands that are not accepted, and construction -/

theorem command_not_ready {i : Instr} {run : State → State} {s : State} (hp : s.ph = .idle) (hs : s.st ≠ .ready) :
    command i run s = .next s := by simp [command, hp, hs]

/-- A command passes by an idle block that is not `READY` (log 10). -/
theorem exec_not_ready {i : Instr} {s : State} (hi : i.IsCommand) (hp : s.ph = .idle) (hs : s.st ≠ .ready) :
    exec i s = .next s := by
  cases i with
  | setControl rs rw | setDataNibble n | setBacklight on | pulseEnable => exact command_not_ready hp hs
  | configureDefault a | configureOverride a m => exact hi.elim

theorem exec_configureOverride_invalid {pm : PinMap} {s : State} (a : BusAddr) (hp : s.ph = .idle) (hv : ¬ pm.Valid) :
    exec (.configureOverride a pm) s = .next (raiseConfigError s) :=
  (if_pos hp).trans (congrArg _ (if_neg hv))

/-- An issue step answers nothing, or the verdict of its write. -/
theorem issue_responses (s : State) :
    (issue s).responses = s.responses ∨ ∃ v, (issue s).responses = s.responses ++ [statusOf v] := by
  by_cases hp : s.ph = .idle
  · exact .inl (by rw [issue_idle hp])
  · rcases issue_cases hp with ⟨-, he⟩ | ⟨-, -, he⟩ | ⟨-, -, he⟩ | ⟨x, landed, -, he⟩ <;> rw [he]
    · exact .inl rfl
    · exact .inl rfl
    · exact .inr ⟨.ok, rfl⟩
    · exact .inr ⟨.err x, rfl⟩

/-- A command answers nothing, or the verdict of a write, in every state. -/
theorem exec_command_responses {i : Instr} {s t : State} (hi : i.IsCommand) (h : exec i s = .next t) :
    t.responses = s.responses ∨ ∃ v, t.responses = s.responses ++ [statusOf v] := by
  by_cases hacc : Accepts s
  · obtain ⟨-, -, ⟨e, -, hr, -⟩ | ⟨-, hr, -⟩⟩ := exec_ends hi hacc h
    · exact .inr ⟨_, hr⟩
    · exact .inl hr
  · rcases exec_command_cases hi h with ⟨-, rfl⟩ | ⟨-, -, rfl⟩ | ⟨hacc', -⟩ | ⟨hacc', -⟩
    · exact issue_responses s
    · exact .inl rfl
    · exact absurd hacc' hacc
    · exact absurd hacc' hacc

theorem exec_command_not_configError {i : Instr} {s t : State} (hi : i.IsCommand) (h : exec i s = .next t) :
    t.responses ≠ s.responses ++ [.configError] := by
  rcases exec_command_responses hi h with hr | ⟨v, hr⟩ <;> rw [hr]
  · simp
  · simp [statusOf_ne_configError v]

/-- Only an invalid PinMap makes construction answer `ConfigError`. -/
theorem not_valid_of_construct_configError {a : BusAddr} {pm : PinMap} {s t : State} (h : configure (construct a pm) s = .next t)
    (hr : t.responses = s.responses ++ [.configError]) : ¬ pm.Valid := by
  obtain ⟨-, rfl⟩ := configure_cases h
  rcases construct_cases a pm s with ⟨-, he⟩ | ⟨hv, -⟩
  · simp [he] at hr
  · exact hv

theorem exec_configError {i : Instr} {s t : State} (h : exec i s = .next t)
    (hr : t.responses = s.responses ++ [.configError]) : ∃ a pm, i = .configureOverride a pm ∧ ¬ pm.Valid := by
  cases i with
  | setControl rs rw | setDataNibble n | setBacklight on | pulseEnable =>
    exact absurd hr (exec_command_not_configError trivial h)
  | configureDefault a => exact absurd defaultPinMap_valid (not_valid_of_construct_configError h hr)
  | configureOverride a pm => exact ⟨a, pm, rfl, not_valid_of_construct_configError h hr⟩

/-- A step leaves an idle block that is not `READY` in its status, unless it takes a configuration word. -/
theorem step_not_ready {s t : State} (hs : s.st ≠ .ready) (hp : s.ph = .idle) (h : step s = .next t) :
    t.st = s.st ∨ ∃ w rest, s.requests = .configure w :: rest := by
  rcases step_cases h with ⟨hbusy, -⟩ | ⟨-, -, rfl⟩ | ⟨r, rest, -, hr, he⟩
  · exact absurd hp hbusy
  · exact .inl rfl
  · cases r with
    | command w =>
      have hpass : exec (decode (.command w)) { s with requests := rest } = .next { s with requests := rest } :=
        exec_not_ready (decodeCommand_isCommand w) hp hs
      rw [hpass] at he
      injection he with he
      exact .inl (he ▸ rfl)
    | configure w => exact .inr ⟨w, rest, hr⟩

/-! ### Other error values -/

/-- A verdict with another error value. -/
def renameVerdict (f : TransportError → TransportError) : Verdict → Verdict
  | .ok => .ok
  | .err x => .err (f x)

/-- An event with another error value. -/
def renameEvent (f : TransportError → TransportError) (e : BusEvent) : BusEvent :=
  { e with result := renameVerdict f e.result }

/-- An answer of the transport with another error value. -/
def renameAnswer (f : TransportError → TransportError) : Answer → Answer
  | .ok => .ok
  | .err x landed => .err (f x) landed
  | .silent => .silent

/-- A status with another error value. -/
def renameStatus (f : TransportError → TransportError) : Status → Status
  | .ok => .ok
  | .busError x => .busError (f x)
  | .configError => .configError

section
variable (f : TransportError → TransportError)

theorem renameErrors_trace (s : State) : (renameErrors f s).trace = s.trace.map (renameEvent f) := rfl
theorem renameErrors_responses (s : State) : (renameErrors f s).responses = s.responses.map (renameStatus f) := rfl
theorem renameErrors_answers (s : State) : (renameErrors f s).answers = s.answers.map (renameAnswer f) := rfl
@[simp] theorem renameErrors_ph (s : State) : (renameErrors f s).ph = s.ph := rfl
@[simp] theorem outByte_renameErrors (s : State) (en : Bool) : outByte (renameErrors f s) en = outByte s en := rfl

theorem verdictOf_renameAnswer (a : Answer) : verdictOf (renameAnswer f a) = (verdictOf a).map (renameVerdict f) := by
  cases a <;> rfl

theorem landsOf_renameAnswer (a : Answer) : landsOf (renameAnswer f a) = landsOf a := by cases a <;> rfl

/-- A fixed answer is renamed; the free value behind the fixed ones is not, so one of them has to be left. -/
theorem nextAnswer_renameErrors {s : State} (h : s.answers ≠ []) :
    nextAnswer (renameErrors f s) = renameAnswer f (nextAnswer s) := by
  obtain ⟨a, as, has⟩ := List.exists_cons_of_ne_nil h
  simp [nextAnswer, renameErrors_answers, has]

theorem traceAfter_renameErrors (s : State) (b : Byte) (v : Option Verdict) :
    traceAfter (renameErrors f s) b (v.map (renameVerdict f)) = (traceAfter s b v).map (renameEvent f) := by
  cases v with
  | none => rfl
  | some v => rw [Option.map_some, traceAfter_some, traceAfter_some, List.map_append, renameErrors_trace]; rfl

theorem busWrite_renameErrors (b : Byte) {s : State} (h : s.answers ≠ []) :
    busWrite b (renameErrors f s) = renameErrors f (busWrite b s) := by
  have ha := nextAnswer_renameErrors f h
  ext1
  case trace => rw [busWrite_trace, ha, verdictOf_renameAnswer, traceAfter_renameErrors]; rfl
  case mem => rw [busWrite_mem, ha, landsOf_renameAnswer]; rfl
  case answers => exact List.map_tail.symm
  all_goals rfl

theorem respond_renameErrors (r : Status) (s : State) :
    respond (renameStatus f r) (renameErrors f s) = renameErrors f (respond r s) := by
  ext1
  case responses => simp [renameErrors_responses]
  all_goals rfl

theorem waitIn_renameErrors (p : Phase) (s : State) : waitIn p (renameErrors f s) = renameErrors f (waitIn p s) := rfl

theorem afterWrite_renameErrors (p : Phase) (v : Verdict) (s : State) :
    afterWrite p (renameVerdict f v) (renameErrors f s) = renameErrors f (afterWrite p v s) := by
  cases v with
  | err x => cases p <;> exact respond_renameErrors f (.busError x) s
  | ok => cases p with
    | pulseHi => exact waitIn_renameErrors f .pulseLo s
    | idle | write | pulseLo => exact respond_renameErrors f .ok s

theorem issue_renameErrors {s : State} (h : s.answers ≠ []) : issue (renameErrors f s) = renameErrors f (issue s) := by
  unfold issue
  rw [renameErrors_ph, nextAnswer_renameErrors f h, verdictOf_renameAnswer, outByte_renameErrors, busWrite_renameErrors f _ h]
  split
  · rfl
  · cases verdictOf (nextAnswer s) with
    | none => rfl
    | some v => exact afterWrite_renameErrors f s.ph v _

/-- Issue steps never look at an error value, as long as each has a fixed answer. -/
theorem iterate_issue_renameErrors (n : Nat) {s : State} (h : n ≤ s.answers.length) :
    issue^[n] (renameErrors f s) = renameErrors f (issue^[n] s) := by
  induction n generalizing s with
  | zero => rfl
  | succ n ih =>
    have hne : s.answers ≠ [] := List.ne_nil_of_length_pos (by omega)
    have hleft : n ≤ (issue s).answers.length := by
      by_cases hp : s.ph = .idle
      · rw [issue_idle hp]; omega
      · rw [(issue_takes_answer hp).1, List.length_tail]; omega
    rw [Function.iterate_succ_apply, Function.iterate_succ_apply, issue_renameErrors f hne, ih hleft]

theorem accept_renameErrors (i : Instr) (s : State) : accept i (renameErrors f s) = renameErrors f (accept i s) := by
  cases i <;> rfl

theorem renameAnswer_eq_ok {a : Answer} : renameAnswer f a = .ok ↔ a = .ok := by cases a <;> simp [renameAnswer]

/-- How many writes a command makes does not depend on an error value. -/
theorem length_writesOf_renameErrors (i : Instr) {s : State} (h : s.answers ≠ []) :
    (writesOf i (renameErrors f s)).length = (writesOf i s).length := by
  cases i with
  | pulseEnable =>
    have hok : nextAnswer (renameErrors f s) = .ok ↔ nextAnswer s = .ok := by
      rw [nextAnswer_renameErrors f h, renameAnswer_eq_ok]
    by_cases ha : nextAnswer s = .ok
    · rw [writesOf_pulse_ok ha, writesOf_pulse_ok (hok.mpr ha)]; rfl
    · rw [writesOf_pulse_not_ok ha, writesOf_pulse_not_ok (mt hok.mp ha)]; rfl
  | setControl rs rw | setDataNibble n | setBacklight on | configureDefault a | configureOverride a m => rfl

/-- A command run under other error values does the same with those in it. -/
theorem exec_renameErrors {i : Instr} {s t : State} (hi : i.IsCommand) (hacc : Accepts s) (hlen : 2 ≤ s.answers.length)
    (h : exec i s = .next t) : exec i (renameErrors f s) = .next (renameErrors f t) := by
  have hne : s.answers ≠ [] := List.ne_nil_of_length_pos (by omega)
  have hfixed : (writesOf i s).length ≤ (accept i s).answers.length := by
    rw [accept_answers]; exact (length_writesOf_le hi).trans hlen
  rw [exec_eq_iterate_issue hi hacc] at h
  injection h with h
  rw [exec_eq_iterate_issue (s := renameErrors f s) hi hacc, length_writesOf_renameErrors f i hne, accept_renameErrors,
    iterate_issue_renameErrors f _ hfixed, h]

end

/-! ### The statements -/

/-- Settles O19: construction with an invalid PinMap is the one way to the response, and a block that is not `READY` lets every
command by. -/
theorem duplicatePositionsFailConstruction : Obligations.DuplicatePositionsFailConstruction := by
  have hnotReady : ∀ {s : State}, s.st = .configError → s.st ≠ .ready := fun hs => by simp [hs]
  refine ⟨fun a pm s hp hv => ?_, fun i s t => exec_configError, fun i s hs hp hi => exec_not_ready hi hp (hnotReady hs),
    fun s t hs hp h hleft => ?_, fun a pm s _ hp hv => ⟨_, exec_configureOverride_valid a hp hv, rfl⟩⟩
  · exact ⟨_, exec_configureOverride_invalid a hp hv, rfl, rfl, rfl, rfl, rfl⟩
  · exact (step_not_ready (hnotReady hs) hp h).resolve_left fun hst => hleft (hst.trans hs)

/-- Settles O22: only an answered last write responds, and it was the only one or the second of a pulse whose first byte is on the
pins. -/
theorem stateAfterBusError : Obligations.StateAfterBusError := by
  intro i s t x hi hacc h hr
  obtain ⟨u, b, hbefore, hlast⟩ := exec_lastWrite hi hacc h
  obtain ⟨hresponses, -⟩ := hbefore.history
  cases hlast with
  | unanswered ha hp => simp [hresponses] at hr
  | @answered v hv =>
    obtain rfl : v = .err x := statusOf_eq_busError.mp (by simpa [hresponses] using hr)
    have hpins := busWrite_pins b u
    cases hbefore with
    | only =>
      exact ⟨rfl, hacc.1, rfl, rfl, rfl, .inl ⟨b, busWrite_trace_answered hv, hpins⟩⟩
    | second hpulse ha =>
      subst hpulse
      rw [busWrite_ok_pins ha] at hpins
      have htrace := busWrite_trace_answered (b := b) hv
      rw [busWrite_trace_answered (verdictOf_eq_ok.mpr ha), List.append_assoc] at htrace
      exact ⟨rfl, hacc.1, rfl, rfl, rfl, .inr ⟨rfl, _, b, htrace, hpins⟩⟩

/-- Settles O23: the response is the verdict of the last write, the only one that can fail; and no issue step looks at an error
value. -/
theorem busErrorExactlyOnFailedWrite : Obligations.BusErrorExactlyOnFailedWrite := by
  refine ⟨fun i s t x hi hacc h => ?_, fun f i s t hi hacc hlen h => exec_renameErrors f hi hacc hlen h⟩
  obtain ⟨es, hes, hend⟩ := exec_ends hi hacc h
  have hok : ¬ ∃ e ∈ es, e.result = .err x := fun ⟨e, he, hx⟩ => by simp [hes e he] at hx
  obtain ⟨e, -, hr, hnew⟩ | ⟨-, hr, hnew⟩ := hend <;> rw [hr, hnew]
  · have hlast : (∃ d ∈ es ++ [e], d.result = .err x) ↔ e.result = .err x := by
      simp only [List.mem_append, List.mem_singleton, or_and_right, exists_or, exists_eq_left, hok, false_or]
    rw [hlast, List.append_cancel_left_eq, List.singleton_inj, statusOf_eq_busError]
  · simp [hok]

/-- Settles O24: the one response is the verdict of the last write, and the writes before it have succeeded. -/
theorem responseTellsAllWritesOk : Obligations.ResponseTellsAllWritesOk := by
  intro i s t hi hacc h
  obtain ⟨es, hes, ⟨e, hp, hr, hnew⟩ | ⟨hp, hr, -⟩⟩ := exec_ends hi hacc h
  · refine ⟨fun _ => ⟨_, hr, ?_⟩, fun hbusy => absurd hp hbusy⟩
    rw [hnew, statusOf_eq_ok, List.forall_mem_append, List.forall_mem_singleton, and_iff_right hes]
  · exact ⟨fun hidle => absurd hidle hp, fun _ => hr⟩

end Sys2Proof.Machine

/-! PROOFS. The step of an idle block: it takes the next request, and where none is presented it changes nothing. -/

namespace Sys2Proof.Machine

/-- A step in `IDLE` issues no write: it is the taking of a request (`42_pulse_enable.md` R84). -/
theorem step_of_idle {s : State} (hp : s.ph = .idle) : step s = takeRequest s := if_pos hp

/-- Nothing presented leaves nothing to take (`70_reset_and_hazards.md` R113; log 9). -/
theorem takeRequest_of_no_request {s : State} (hr : s.requests = []) : takeRequest s = .next s := by
  simp only [takeRequest, hr]

/-- Settles O35: a step of an idle block only takes a request, and there is none. -/
theorem idleStepChangesNothing : Obligations.IdleStepChangesNothing := by
  intro s hp hr
  rw [step_of_idle hp, takeRequest_of_no_request hr]

end Sys2Proof.Machine

/-! PROOFS. The fields of the two word formats, read and written by one equivalence for each; and the five statements about the
encodings, with the codes of the outcomes. -/

namespace Sys2Proof.Machine

/-! ### The fields of a word -/

/-- A slice is a concatenation exactly when its two parts are the slices of the two. -/
theorem append_eq_extractLsb'_iff {k m n p : Nat} {a : BitVec m} {b : BitVec n} {w : BitVec k} :
    a ++ b = w.extractLsb' p (m + n) ↔ a = w.extractLsb' (p + n) m ∧ b = w.extractLsb' p n := by
  rw [← BitVec.extractLsb'_append_extractLsb'_eq_extractLsb' (x := w) (start₁ := p) rfl]
  constructor
  · intro h
    have hhigh := congrArg (BitVec.extractLsb' n m) h
    have hlow := congrArg (BitVec.extractLsb' 0 n) h
    rw [BitVec.extractLsb'_append_eq_left, BitVec.extractLsb'_append_eq_left] at hhigh
    rw [BitVec.extractLsb'_append_eq_right, BitVec.extractLsb'_append_eq_right] at hlow
    exact ⟨hhigh, hlow⟩
  · rintro ⟨rfl, rfl⟩; rfl

/-- A command word is an opcode above an argument (`30_encoding.md` R48). -/
theorem cmdWord_eq_iff {op : BitVec 2} {n : Nibble} {w : CmdWord} :
    (op ++ n : CmdWord) = w ↔ op = cmdOpcode w ∧ n = cmdArg w := by
  conv_lhs => rw [← BitVec.extractLsb'_eq_self (x := w)]
  exact append_eq_extractLsb'_iff

/-- The low 24 bits of a configuration word are the positions of its PinMap (`30_encoding.md` R47). -/
theorem packPositions_eq_iff {pm : PinMap} {w : CfgWord} :
    packPositions pm = w.extractLsb' 0 24 ↔ pm = cfgPinMap w := by
  obtain ⟨rs, rw, e, d4, d5, d6, d7, bl⟩ := pm
  change bl ++ d7 ++ d6 ++ d5 ++ d4 ++ e ++ rw ++ rs = w.extractLsb' 0 (3 + 3 + 3 + 3 + 3 + 3 + 3 + 3) ↔ _
  simp only [append_eq_extractLsb'_iff, cfgPinMap, PinMap.mk.injEq]
  tauto

/-- The selector field is the selector bit. -/
theorem extractLsb'_selector (w : CfgWord) : w.extractLsb' 31 1 = bit1 (cfgUseDefault w) := by
  refine BitVec.eq_of_getLsbD_eq fun i hi => ?_
  obtain rfl : i = 0 := by omega
  simp [bit1, cfgUseDefault]

theorem bit1_eq_iff {a b : Bool} : bit1 a = bit1 b ↔ a = b := by revert a b; decide

/-- A configuration word is a selector above an address above 24 low bits (`30_encoding.md` R47). -/
theorem cfgWord_eq_iff {sel : Bool} {a : BusAddr} {y : BitVec 24} {w : CfgWord} :
    (bit1 sel ++ a ++ y : CfgWord) = w ↔ sel = cfgUseDefault w ∧ a = cfgAddr w ∧ y = w.extractLsb' 0 24 := by
  conv_lhs => rw [← BitVec.extractLsb'_eq_self (x := w)]
  rw [← bit1_eq_iff, ← extractLsb'_selector, ← and_assoc]
  exact append_eq_extractLsb'_iff.trans (and_congr_left' append_eq_extractLsb'_iff)

theorem encode_configureOverride (a : BusAddr) (pm : PinMap) :
    encode (.configureOverride a pm) = .configure (bit1 false ++ a ++ packPositions pm) := rfl

/-! ### What a word spells -/

theorem decodeCommand_data {w : CmdWord} (h : cmdOpcode w = 0b01#2) : decodeCommand w = .setDataNibble (cmdArg w) := by
  simp [decodeCommand, h]

theorem decodeCommand_pulse {w : CmdWord} (h : cmdOpcode w = 0b10#2) : decodeCommand w = .pulseEnable := by
  simp [decodeCommand, h]

theorem decodeCommand_backlight {w : CmdWord} (h : cmdOpcode w = 0b11#2) : decodeCommand w = .setBacklight (w.getLsbD 0) := by
  simp [decodeCommand, h, cmdArg]

theorem decodeConfig_default {w : CfgWord} (h : cfgUseDefault w = true) : decodeConfig w = .configureDefault (cfgAddr w) :=
  if_pos h

theorem decodeConfig_override {w : CfgWord} (h : cfgUseDefault w = false) :
    decodeConfig w = .configureOverride (cfgAddr w) (cfgPinMap w) :=
  if_neg (by simp [h])

/-- Four opcodes, all taken (`30_encoding.md` R48). -/
theorem cmdOpcode_cases (w : CmdWord) :
    cmdOpcode w = 0b00#2 ∨ cmdOpcode w = 0b01#2 ∨ cmdOpcode w = 0b10#2 ∨ cmdOpcode w = 0b11#2 := by
  generalize cmdOpcode w = op
  revert op; decide

/-- The opcode of an operation: that of the words it is decoded from. -/
theorem tableRow_decodeCommand (w : CmdWord) : (tableRow (decodeCommand w)).1 = (cmdOpcode w).setWidth 32 <<< 4 := by
  rcases cmdOpcode_cases w with h | h | h | h
  · rw [setControlResult.1 w h, h]; rfl
  · rw [decodeCommand_data h, h]; rfl
  · rw [decodeCommand_pulse h, h]; rfl
  · rw [decodeCommand_backlight h, h]; rfl

theorem cmdOpcode_eq_of_decodeCommand_eq {w v : CmdWord} (h : decodeCommand w = decodeCommand v) :
    cmdOpcode w = cmdOpcode v := by
  have hrow := tableRow_decodeCommand w
  rw [h, tableRow_decodeCommand v] at hrow
  revert hrow
  generalize cmdOpcode w = op, cmdOpcode v = op'
  revert op op'; decide

/-! ### The statements -/

/-- Settles O1: the fields of an encoded word are those the operation was encoded from. -/
theorem decodeEncodeRoundTrip : Obligations.DecodeEncodeRoundTrip := by
  intro i
  cases i with
  | setControl rs rw => revert rs rw; decide
  | setDataNibble n =>
    obtain ⟨hop, harg⟩ := (cmdWord_eq_iff (op := 0b01#2) (n := n)).mp rfl
    exact (decodeCommand_data hop.symm).trans (congrArg _ harg.symm)
  | pulseEnable => decide
  | setBacklight on => revert on; decide
  | configureDefault a =>
    obtain ⟨hsel, haddr, -⟩ := (cfgWord_eq_iff (sel := true) (a := a) (y := 0#24)).mp rfl
    exact (decodeConfig_default hsel.symm).trans (congrArg _ haddr.symm)
  | configureOverride a pm =>
    obtain ⟨hsel, haddr, hlow⟩ := (cfgWord_eq_iff (sel := false) (a := a) (y := packPositions pm)).mp rfl
    refine (decodeConfig_override hsel.symm).trans ?_
    exact congrArg₂ _ haddr.symm (packPositions_eq_iff.mp hlow).symm

/-- Settles O2: the word is made of the fields that decoding reads. -/
theorem wordsWithoutIgnoredBits : Obligations.WordsWithoutIgnoredBits := by
  constructor
  · intro w hsel
    have hsel : cfgUseDefault w = false := hsel
    rw [decodeConfig_override hsel, encode_configureOverride]
    exact congrArg Request.configure (cfgWord_eq_iff.mpr ⟨hsel.symm, rfl, packPositions_eq_iff.mpr rfl⟩)
  · intro w hop
    have hop : cmdOpcode w = 0b01#2 := hop
    rw [decodeCommand_data hop]
    exact congrArg Request.command (cmdWord_eq_iff.mpr ⟨hop.symm, rfl⟩)

/-- Settles O3, opcode by opcode. -/
theorem ignoredBitsDenoteNothing : Obligations.IgnoredBitsDenoteNothing := by
  constructor
  · intro w v
    by_cases hop : cmdOpcode w = cmdOpcode v
    · rcases cmdOpcode_cases w with h | h | h | h <;> have h' := hop.symm.trans h
      · rw [setControlResult.1 w h, setControlResult.1 v h']; simp [h, h']
      · rw [decodeCommand_data h, decodeCommand_data h']; simp [h, h', cmdArg]
      · rw [decodeCommand_pulse h, decodeCommand_pulse h']; simp [h, h']
      · rw [decodeCommand_backlight h, decodeCommand_backlight h']; simp [h, h']
    · exact iff_of_false (mt cmdOpcode_eq_of_decodeCommand_eq hop) fun hcond => hop hcond.1
  · intro w v hw hv
    rw [decodeConfig_default hw, decodeConfig_default hv, Instr.configureDefault.injEq]
    rfl

/-- Settles O4, word by word. -/
theorem sampleWordsDecode : Obligations.SampleWordsDecode := by
  unfold Obligations.SampleWordsDecode
  decide

/-- Settles O53, by the tables of the codes. -/
theorem codesOfTheOutcomes : Obligations.CodesOfTheOutcomes := by
  refine ⟨rfl, fun x => ⟨rfl, rfl⟩, rfl, rfl, fun r => ?_, rfl, rfl, rfl, fun l => ?_, rfl, rfl, rfl, rfl⟩
  · cases r <;> simp [statusCode]
  · cases l <;> decide

end Sys2Proof.Machine

/-! PROOFS. The pins stay canonical through every step; and what one bus write, one step and one operation do, as whole next
states, in an idle block and in a busy one. -/

namespace Sys2Proof.Machine

/-! ### The canonical form of the pins -/

theorem issue_keeps_memory_wf {s : State} (h : Memory.wf s.mem) : Memory.wf (issue s).mem := by
  by_cases hp : s.ph = .idle
  · rwa [issue_idle hp]
  · rcases issue_cases hp with ⟨-, he⟩ | ⟨-, -, he⟩ | ⟨-, -, he⟩ | ⟨x, landed, -, he⟩ <;> rw [he] <;>
      exact busWrite_mem_wf _ h

theorem iterate_issue_keeps_memory_wf (n : Nat) {s : State} (h : Memory.wf s.mem) : Memory.wf (issue^[n] s).mem :=
  Function.Iterate.rec (fun s : State => Memory.wf s.mem) h (fun _ => issue_keeps_memory_wf) n

/-- Every operation writes to the pins by issue steps only. -/
theorem exec_keeps_memory_wf {i : Instr} {s t : State} (hs : Memory.wf s.mem) (h : exec i s = .next t) :
    Memory.wf t.mem := by
  rcases exec_cases h with ⟨-, -, rfl⟩ | ⟨-, -, -, rfl⟩ | ⟨l, -, -, -, rfl⟩ | ⟨-, -, -, rfl⟩ | ⟨a, m, -, -, -, rfl⟩ |
    ⟨-, -, rfl⟩
  · exact issue_keeps_memory_wf hs
  · exact hs
  · rw [latchAndWrite_eq_issue]
    exact issue_keeps_memory_wf (s := waitIn .write { s with latch := l }) hs
  · rw [pulse_eq_iterate_issue]
    exact iterate_issue_keeps_memory_wf _ (s := waitIn .pulseHi s) hs
  · exact hs
  · exact hs

/-! ### One bus write -/

theorem busWrite_answered {s : State} {v : Verdict} (b : Byte) (hv : verdictOf (nextAnswer s) = some v) :
    busWrite b s =
      { s with
        trace := s.trace ++ [{ addr := s.addr, byte := b, result := v }]
        mem := memAfter s b (landsOf (nextAnswer s))
        answers := s.answers.tail
        draws := s.draws + 1 } := by
  rw [busWrite, hv]; rfl

theorem busWrite_silent {s : State} (b : Byte) (ha : nextAnswer s = .silent) : busWrite b s = takeAnswer s := by
  rw [busWrite, ha]; rfl

/-- An unanswered write leaves the operation in flight where it is (`20_memory.md` R39). -/
theorem issue_silent {s : State} (hp : s.ph ≠ .idle) (ha : nextAnswer s = .silent) : issue s = takeAnswer s := by
  simp [issue, hp, ha, busWrite_silent]

/-- An answered enable-low write ends the operation in flight. -/
theorem issue_low_answered {s : State} {v : Verdict} (hp : s.ph = .write ∨ s.ph = .pulseLo)
    (hv : verdictOf (nextAnswer s) = some v) : issue s = respond (statusOf v) (busWrite (outByte s false) s) := by
  rcases hp with hp | hp <;> cases v <;> simp [issue, hp, hv, enableOf, afterWrite, statusOf, returnOk, raiseBusError]

theorem issue_high_err {s : State} {x : TransportError} {landed : Bool} (hp : s.ph = .pulseHi)
    (ha : nextAnswer s = .err x landed) : issue s = raiseBusError x (busWrite (outByte s true) s) := by
  simp [issue, hp, ha, enableOf, afterWrite]

theorem issue_high_ok {s : State} (hp : s.ph = .pulseHi) (ha : nextAnswer s = .ok) :
    issue s = waitIn .pulseLo (busWrite (outByte s true) s) := by
  simp [issue, hp, ha, enableOf, afterWrite]

/-! ### The step and the operations of a busy block -/

theorem step_of_busy {s : State} (hp : s.ph ≠ .idle) : step s = .next (issue s) := if_neg hp

theorem command_busy {i : Instr} {run : State → State} {s : State} (hp : s.ph ≠ .idle) :
    command i run s = .next (hold (encode i) s) := if_neg hp

theorem exec_command_busy {i : Instr} {s : State} (hi : i.IsCommand) (hp : s.ph ≠ .idle) :
    exec i s = .next (hold (encode i) s) := by
  cases i with
  | setControl rs rw | setDataNibble n | setBacklight on | pulseEnable => exact command_busy hp
  | configureDefault a | configureOverride a m => exact hi.elim

theorem hold_eq (r : Request) (s : State) : hold r s = { issue s with requests := r :: (issue s).requests } := by
  rw [(issue_frame s).requests]; rfl

theorem length_newEvents_issue_le (s : State) : (newEvents s (issue s)).length ≤ 1 := by
  obtain ⟨es, ht, hlen, -⟩ := (issue_run s).events
  rwa [newEvents, ht, List.drop_left]

theorem exec_construction_busy {i : Instr} {s : State} (hi : ¬ i.IsCommand) (hp : s.ph ≠ .idle) :
    exec i s = .refused .resetInFlight := by
  cases i with
  | setControl rs rw | setDataNibble n | setBacklight on | pulseEnable => exact absurd trivial hi
  | configureDefault a | configureOverride a m => exact if_neg hp

/-! ### Construction -/

/-- The two outcomes of an admitted construction. -/
theorem exec_construction_cases {i : Instr} {s t : State} (hi : ¬ i.IsCommand) (h : exec i s = .next t) :
    (∃ a m, t = constructed a m s) ∨ t = raiseConfigError s := by
  rcases exec_cases h with ⟨hc, -⟩ | ⟨hc, -⟩ | ⟨l, hc, -⟩ | ⟨rfl, -⟩ | ⟨a, m, -, -, -, he⟩ | ⟨-, -, he⟩
  · exact absurd hc hi
  · exact absurd hc hi
  · exact absurd hc hi
  · exact absurd trivial hi
  · exact .inl ⟨a, m, he⟩
  · exact .inr he

/-- The default PinMap is valid, so construction with it always succeeds (`10_state.md` R13). -/
theorem exec_configureDefault_idle {s : State} (a : BusAddr) (hp : s.ph = .idle) :
    exec (.configureDefault a) s = .next (constructed a Config.defaultPinMap s) :=
  (if_pos hp).trans (congrArg _ (if_pos defaultPinMap_valid))

/-- The whole state that construction leaves of an idle block. -/
theorem constructed_of_idle {s : State} (a : BusAddr) (pm : PinMap) (hp : s.ph = .idle) :
    constructed a pm s =
      { s with
        addr := a
        pm := pm
        st := .ready
        latch := { rs := Config.resetRs, rw := Config.resetRw, nib := Config.resetNib, bl := true }
        trace := []
        responses := s.responses ++ [.ok] } := by
  rw [constructed, respond, ← hp]; rfl

/-! ### The statements -/

/-- Settles O42: a step is an issue step, an operation, or nothing. -/
theorem stepKeepsMemoryCanonical : Obligations.StepKeepsMemoryCanonical := by
  intro s t hs h
  rcases step_cases h with ⟨-, rfl⟩ | ⟨-, -, rfl⟩ | ⟨r, rest, -, -, he⟩
  · exact issue_keeps_memory_wf hs
  · exact hs
  · exact exec_keeps_memory_wf (s := { s with requests := rest }) hs he

/-- Settles O12: the opcode selects the operation, and an answered latch-and-write has one next state. -/
theorem setDataNibbleResult : Obligations.SetDataNibbleResult :=
  ⟨fun _ => decodeCommand_data, fun _ _ _ hacc hv => exec_latchWrite_answered trivial hacc hv⟩

/-- Settles O13, as O12. -/
theorem setBacklightResult : Obligations.SetBacklightResult :=
  ⟨fun _ => decodeCommand_backlight, fun _ _ _ hacc hv => exec_latchWrite_answered trivial hacc hv⟩

/-- Settles O14: the two writes one after the other, each with its answer. -/
theorem pulseEnableResult : Obligations.PulseEnableResult := by
  refine ⟨fun w => decodeCommand_pulse, fun s v hacc hok hv => ?_⟩
  have hrun : exec .pulseEnable s = .next (pulse s) := command_accepts hacc
  rw [hrun, pulse_answered hok hv, busWrite_answered (s := busWrite _ s) _ hv, busWrite_answered _ (verdictOf_eq_ok.mpr hok)]
  rw [respond, ← hacc.2, hok, List.append_assoc]
  rfl

/-- Settles O17: construction with the default, which is valid. -/
theorem configureDefaultResult : Obligations.ConfigureDefaultResult := by
  refine ⟨fun w => decodeConfig_default, fun a s hp => ?_⟩
  rw [exec_configureDefault_idle a hp, constructed_of_idle a _ hp]

/-- Settles O18: construction with a valid PinMap. -/
theorem configureOverrideResult : Obligations.ConfigureOverrideResult := by
  refine ⟨fun w => decodeConfig_override, fun a pm s hp hv => ?_⟩
  rw [exec_configureOverride_valid a hp hv, constructed_of_idle a pm hp]

/-- Settles O20: an operand that is already latched composes the byte of the latch as it stands. -/
theorem repeatedOperandStillWrites : Obligations.RepeatedOperandStillWrites := by
  intro i s v hi hsame hacc hv
  have hrun := exec_latchWrite_answered hi hacc hv
  rw [hsame] at hrun
  exact ⟨_, hrun, rfl, rfl⟩

/-- Settles O29: the step of a busy block is the issue step, and holding a command is that step with the command's word in front. -/
theorem busyBlockHoldsCommand : Obligations.BusyBlockHoldsCommand := by
  intro i s hi hp
  exact ⟨_, _, exec_command_busy hi hp, step_of_busy hp, hold_eq _ s, (issue_frame s).latch, length_newEvents_issue_le s⟩

/-- Settles O31: an unanswered write only takes the silence. -/
theorem silentTransportMakesTheBlockWait : Obligations.SilentTransportMakesTheBlockWait := by
  refine ⟨fun i s hi hacc ha => ?_, fun s hacc ha => ?_, fun s hacc hok ha => ?_, fun s hp ha => ?_⟩
  · have hcmd := isCommand_of_isLatchWrite hi
    have hsilent : nextAnswer (accept i s) = .silent := by rw [accept_latchWrite hi]; exact ha
    rw [exec_silent hcmd hacc ha, issue_silent (accept_busy hcmd s) hsilent, accept_latchWrite hi]
    rfl
  · rw [exec_silent (i := .pulseEnable) trivial hacc ha, issue_silent (accept_busy (i := .pulseEnable) trivial s) ha]
    rfl
  · rw [exec_pulse_ok hacc hok, issue_accept_pulse_ok hok,
      issue_silent (s := waitIn .pulseLo (busWrite (outByte s true) s)) (by simp) ha,
      busWrite_answered _ (verdictOf_eq_ok.mpr hok), hok]
    rfl
  · rw [step_of_busy hp, issue_silent hp ha]
    rfl

/-- Settles O36: each issue step is one write and what its answer does in the phase. -/
theorem sequencerIssueSteps : Obligations.SequencerIssueSteps := by
  refine ⟨fun s v hp hv => ?_, fun s hp ha => ?_, fun s x landed hp ha => ?_⟩
  · have hbusy : s.ph ≠ .idle := by rcases hp with hp | hp <;> simp [hp]
    rw [step_of_busy hbusy, issue_low_answered hp hv, busWrite_answered _ hv]
    rfl
  · rw [step_of_busy (by simp [hp]), issue_high_ok hp ha, busWrite_answered _ (verdictOf_eq_ok.mpr ha), ha]
    rfl
  · rw [step_of_busy (by simp [hp]), issue_high_err hp ha, busWrite_answered _ (verdictOf_eq_err.mpr ⟨landed, ha⟩), ha]
    rfl

/-- Settles O39: both outcomes of construction keep the fields the statement names. -/
theorem frameOfConstruction : Obligations.FrameOfConstruction := by
  intro i s t hi h
  rcases exec_construction_cases hi h with ⟨a, m, rfl⟩ | rfl
  · exact ⟨rfl, rfl, rfl, rfl, rfl, List.prefix_append _ _, fun hst => by cases hst⟩
  · exact ⟨rfl, rfl, rfl, rfl, rfl, List.prefix_append _ _, fun _ => ⟨rfl, rfl, rfl, rfl⟩⟩

/-- Settles O10: the event is the answered question's, and the block's own fields are none of the write's. -/
theorem busWriteAppendsOneEvent : Obligations.BusWriteAppendsOneEvent :=
  fun _ _ => ⟨fun _ => busWrite_trace_answered, fun ha => by rw [busWrite_silent _ ha, takeAnswer_trace],
    fun _ => verdictOf_eq_err, rfl, rfl, rfl, rfl, rfl, rfl⟩

/-- Settles O28: a command runs in `READY` only, and in `IDLE` none is held. -/
theorem commandsNeedReady : Obligations.CommandsNeedReady :=
  fun _ _ => exec_not_ready

/-- Settles O30: both forms are admitted in `IDLE` only. -/
theorem resetInFlightIsRefused : Obligations.ResetInFlightIsRefused :=
  fun _ _ => exec_construction_busy

end Sys2Proof.Machine

/-! PROOFS. Whole commands whose writes succeed: the pins they leave, the one byte that raises the enable line, and the bytes of a
list of them; the calls with plain numbers; and how a request reaches the block. -/

namespace Sys2Proof.Machine

/-! ### The pins after a success -/

/-- An issue step that answers `OK` has put the enable-low byte of the latch on the pins. -/
theorem issue_inSync {s : State} (hr : (issue s).responses = s.responses ++ [.ok]) : InSync (issue s) := by
  by_cases hp : s.ph = .idle
  · simp [issue_idle hp] at hr
  · rcases issue_cases hp with ⟨-, he⟩ | ⟨-, -, he⟩ | ⟨ha, -, he⟩ | ⟨x, landed, -, he⟩ <;> rw [he] at hr ⊢
    · simp at hr
    · simp at hr
    · exact busWrite_ok_pins ha
    · simp at hr

theorem latchAndWrite_inSync {l : Latch} {s : State} (hr : (latchAndWrite l s).responses = s.responses ++ [.ok]) :
    InSync (latchAndWrite l s) := by
  rw [latchAndWrite_eq_issue] at hr ⊢
  exact issue_inSync hr

/-- A pulse answers `OK` only from its enable-low write. -/
theorem pulse_inSync {s : State} (hr : (pulse s).responses = s.responses ++ [.ok]) : InSync (pulse s) := by
  rcases pulse_cases s with ⟨-, he⟩ | ⟨x, landed, -, he⟩ | ⟨-, he⟩ <;> rw [he] at hr ⊢
  · rw [pulseLow_eq_issue] at hr ⊢
    exact issue_inSync hr
  · simp at hr
  · simp at hr

/-! ### The enable line -/

/-- An event with the enable bit set is that of a write with enable high. -/
theorem enable_of_eventOf {s : State} {w : Bool × Answer} {e : BusEvent} (hv : s.pm.Valid) (he : eventOf s w = some e)
    (hbit : bitAt e.byte s.pm.e = true) : w.1 = true := by
  obtain ⟨v, -, rfl⟩ := Option.map_eq_some_iff.mp he
  exact (bitAt_compose_levels_e hv s.latch w.1).symm.trans hbit

/-- The only write with enable high is the first of a pulse. -/
theorem writesOf_high {i : Instr} {s : State} {w : Bool × Answer} (hi : i.IsCommand) (hw : w ∈ writesOf i s)
    (hhigh : w.1 = true) : i = .pulseEnable ∧ ∃ ws, writesOf i s = w :: ws := by
  obtain ⟨en, a⟩ := w
  obtain rfl : en = true := hhigh
  cases i with
  | setControl rs rw | setDataNibble n | setBacklight on => simp [writesOf] at hw
  | pulseEnable =>
    by_cases ha : nextAnswer s = .ok
    · rw [writesOf_pulse_ok ha] at hw ⊢
      obtain rfl : a = nextAnswer s := by simpa using hw
      exact ⟨rfl, _, rfl⟩
    · rw [writesOf_pulse_not_ok ha] at hw ⊢
      obtain rfl : a = nextAnswer s := by simpa using hw
      exact ⟨rfl, _, rfl⟩
  | configureDefault a | configureOverride a m => exact hi.elim

/-! ### Commands whose writes succeed -/

/-- The enable levels of the writes of a command that meets no failure. -/
def enablesOf : Instr → List Bool
  | .setControl _ _ => [false]
  | .setDataNibble _ => [false]
  | .pulseEnable => [true, false]
  | .setBacklight _ => [false]
  | .configureDefault _ => []
  | .configureOverride _ _ => []

/-- The bytes of a list of commands that meet no failure, each composed from the latch as its operand left it. -/
def bytesOf (pm : PinMap) : List Instr → Latch → List Byte
  | [], _ => []
  | i :: is, l =>
    ((enablesOf i).map fun en => compose pm ((applyOperand i l).levels en)) ++ bytesOf pm is (applyOperand i l)

/-- The event of a successful write of a command, its operand in the latch. -/
def okEvent (i : Instr) (s : State) (en : Bool) : BusEvent where
  addr   := s.addr
  byte   := compose s.pm ((applyOperand i s.latch).levels en)
  result := .ok

theorem AllOk.mono {m n : Nat} {s : State} (h : AllOk n s) (hmn : m ≤ n) : AllOk m s := by
  rw [AllOk, ← Nat.min_eq_left hmn, ← List.take_take, h, List.take_replicate]

theorem AllOk.of_drop {k n : Nat} {s t : State} (h : AllOk (k + n) s) (ht : t.answers = s.answers.drop k) : AllOk n t := by
  rw [AllOk, ht, List.take_drop, h, List.drop_replicate, Nat.add_sub_cancel_left]

theorem AllOk.nextAnswer_eq {s : State} (h : AllOk 1 s) : nextAnswer s = .ok := by
  rw [AllOk] at h
  cases has : s.answers with
  | nil => simp [has] at h
  | cons a as =>
    rw [nextAnswer_cons has]
    simpa [has] using h

/-- With no failure ahead a command makes all its writes. -/
theorem writesOf_allOk {i : Instr} {s : State} (hi : i.IsCommand) (hok : AllOk (enablesOf i).length s) :
    writesOf i s = (enablesOf i).map fun en => (en, .ok) := by
  cases i with
  | setControl rs rw | setDataNibble n | setBacklight on => simp [writesOf, enablesOf, hok.nextAnswer_eq]
  | pulseEnable =>
    have h1 : nextAnswer s = .ok := (hok.mono one_le_two).nextAnswer_eq
    have h2 : nextAnswer (takeAnswer s) = .ok := (hok.of_drop (k := 1) (n := 1) (by simp)).nextAnswer_eq
    simp [writesOf, enablesOf, h1, h2]
  | configureDefault a | configureOverride a m => exact hi.elim

/-- A command that meets no failure completes, writes all its bytes and answers `OK`. -/
theorem exec_allOk {i : Instr} {s : State} {n : Nat} (hi : i.IsCommand) (hacc : Accepts s)
    (hok : AllOk ((enablesOf i).length + n) s) :
    ∃ t, exec i s = .next t ∧ CommandRun i s t ∧ Accepts t ∧ AllOk n t ∧
      newEvents s t = (enablesOf i).map (okEvent i s) ∧ t.responses = s.responses ++ [.ok] := by
  obtain ⟨t, ht, hrun⟩ := exec_commandRun hi hacc
  have hwrites := writesOf_allOk hi (hok.mono (Nat.le_add_right _ n))
  have hidle : t.ph = .idle := hrun.idle (by simp [hwrites])
  have hevent : eventOf { s with latch := applyOperand i s.latch } ∘ (fun en => (en, .ok)) = some ∘ okEvent i s := rfl
  have hnew : newEvents s t = (enablesOf i).map (okEvent i s) := by
    rw [hrun.newEvents_eq, hwrites, List.filterMap_map, hevent, List.filterMap_eq_map]
  have hleft : AllOk n t := hok.of_drop (by rw [hrun.writes.answers, hwrites, List.length_map])
  obtain ⟨r, hr, hokr⟩ := (responseTellsAllWritesOk i s t hi hacc ht).1 hidle
  obtain rfl : r = .ok := hokr.mpr (by rw [hnew, List.forall_mem_map]; exact fun _ _ => rfl)
  exact ⟨t, ht, hrun, ⟨hrun.writes.st.trans hacc.1, hidle⟩, hleft, hnew, hr⟩

/-- A list of commands that meets no failure completes, writes the bytes of all of them and answers `OK` to each. -/
theorem execAll_allOk {is : List Instr} {s : State} (his : ∀ i ∈ is, i.IsCommand) (hacc : Accepts s)
    (hok : AllOk (is.flatMap enablesOf).length s) :
    ∃ t, execAll is s = .next t ∧ SessionRun is s t ∧
      (∃ es, t.trace = s.trace ++ es ∧ es.map (fun e => e.byte) = bytesOf s.pm is s.latch) ∧
      t.responses = s.responses ++ List.replicate is.length .ok := by
  induction is generalizing s with
  | nil => exact ⟨s, rfl, .nil s, ⟨[], by simp [bytesOf]⟩, by simp⟩
  | cons i is ih =>
    obtain ⟨hi, his⟩ := List.forall_mem_cons.mp his
    rw [List.flatMap_cons, List.length_append] at hok
    obtain ⟨t, ht, hrun, hacct, hleft, hnew, hr⟩ := exec_allOk hi hacc hok
    obtain ⟨u, hu, hsession, ⟨es, htrace, hbytes⟩, hru⟩ := ih his hacct hleft
    have hfirst : t.trace = s.trace ++ newEvents s t := by rw [newEvents, hrun.writes.trace, List.drop_left]
    refine ⟨u, (execAll_cons ht).trans hu, .cons hrun hsession, ⟨newEvents s t ++ es, ?_, ?_⟩, ?_⟩
    · rw [htrace, hfirst, List.append_assoc]
    · rw [List.map_append, hbytes, hnew, hrun.pm, hrun.latch, List.map_map]; rfl
    · rw [hru, hr, List.append_assoc]; rfl

/-- What the bytes of a list of commands are, as the new events show them. -/
theorem execAll_allOk_newEvents {is : List Instr} {s : State} (his : ∀ i ∈ is, i.IsCommand) (hacc : Accepts s)
    (hok : AllOk (is.flatMap enablesOf).length s) :
    ∃ t, execAll is s = .next t ∧ (newEvents s t).map (fun e => e.byte) = bytesOf s.pm is s.latch ∧
      t.latch = latestLatch is s.latch ∧ t.responses = s.responses ++ List.replicate is.length .ok := by
  obtain ⟨t, ht, hsession, ⟨es, htrace, hbytes⟩, hr⟩ := execAll_allOk his hacc hok
  exact ⟨t, ht, by rw [newEvents, htrace, List.drop_left, hbytes], hsession.latch, hr⟩

/-! ### Calls with plain numbers -/

theorem execCall_position_out_of_range {a rs rw e d4 d5 d6 d7 bl : Nat} {s : State} (ha : a < 128)
    (hpos : 7 < rs ∨ 7 < rw ∨ 7 < e ∨ 7 < d4 ∨ 7 < d5 ∨ 7 < d6 ∨ 7 < d7 ∨ 7 < bl) :
    execCall (.configure a (.override rs rw e d4 d5 d6 d7 bl)) s = configure raiseConfigError s := by
  have hrange : (PinChoice.override rs rw e d4 d5 d6 d7 bl).inRange = false := by
    simp only [PinChoice.inRange, List.all_cons, List.all_nil, Bool.and_true, Bool.and_eq_false_iff, decide_eq_false_iff_not]
    omega
  simp only [execCall, if_pos ha, hrange, Bool.false_eq_true, if_false]

theorem execCall_address_out_of_range {a : Nat} (c : PinChoice) (s : State) (ha : 128 ≤ a) :
    execCall (.configure a c) s = .refused .operandOutOfType := by
  cases c with
  | default | override rs rw e d4 d5 d6 d7 bl => exact if_neg (Nat.not_lt.mpr ha)

/-- The numbers of an address and a PinMap are in range, and name them. -/
theorem execCall_override_toNat (a : BusAddr) (pm : PinMap) (s : State) :
    execCall (.configure a.toNat (.override pm.rs.toNat pm.rw.toNat pm.e.toNat pm.d4.toNat pm.d5.toNat pm.d6.toNat
      pm.d7.toNat pm.bl.toNat)) s = exec (.configureOverride a pm) s := by
  have hposition (p : Position) : p.toNat < 8 := p.isLt
  have haddr : a.toNat < 128 := a.isLt
  simp [execCall, PinChoice.inRange, hposition, haddr]

/-! ### Requests -/

theorem takeRequest_of_cons {s : State} {r : Request} {rest : List Request} (hr : s.requests = r :: rest) :
    takeRequest s = exec (decode r) { s with requests := rest } := by
  simp only [takeRequest, hr]

theorem decodeTableWord_eq_some {nbits w : Nat} {i : Instr} (h : decodeTableWord nbits w = some i) :
    ∃ r, requestOfTableWord nbits w = .ok r ∧ decode r = i := by
  unfold decodeTableWord at h
  split at h
  · next r hr => exact ⟨r, hr, Option.some.inj h⟩
  · cases h

/-! ### The statements -/

/-- Settles O25: only a last write that succeeded answers `OK`, and its byte is the enable-low one. -/
theorem successBringsPinsToLatch : Obligations.SuccessBringsPinsToLatch := by
  intro i s t hi hacc h hr
  rcases exec_accepted hi hacc with ⟨-, he⟩ | ⟨-, he⟩ <;> rw [he] at h <;> injection h with h <;> subst h
  · exact latchAndWrite_inSync hr
  · exact pulse_inSync hr

/-- Settles O26: an event with the enable bit set comes of the write with enable high, which is the first of a pulse. -/
theorem enableHighOnlyInFirstPulseByte : Obligations.EnableHighOnlyInFirstPulseByte := by
  intro i s t e hi hacc hv h he hbit
  obtain ⟨t', ht', hrun⟩ := exec_commandRun hi hacc
  obtain rfl : t' = t := by rw [ht'] at h; injection h
  rw [hrun.newEvents_eq] at he ⊢
  obtain ⟨w, hw, hevent⟩ := List.mem_filterMap.mp he
  have hhigh := enable_of_eventOf (s := { s with latch := applyOperand i s.latch }) hv hevent hbit
  obtain ⟨hpulse, ws, hwrites⟩ := writesOf_high hi hw hhigh
  exact ⟨hpulse, by rw [hwrites, List.filterMap_cons_some hevent, List.head?_cons]⟩

/-- Settles O27: two pulses leave the latch as it is. -/
theorem twoPulsesAreFourWrites : Obligations.TwoPulsesAreFourWrites := by
  intro s hacc hok
  obtain ⟨t, ht, hbytes, -, hr⟩ :=
    execAll_allOk_newEvents (is := [.pulseEnable, .pulseEnable]) (by simp [Instr.IsCommand]) hacc hok
  exact ⟨t, ht, hbytes, hr⟩

/-- Settles O52: the three commands write one byte, one and two. -/
theorem sendNibbleIsFourWrites : Obligations.SendNibbleIsFourWrites := by
  intro rs rw n s hacc hok
  obtain ⟨t, ht, hbytes, hlatch, hr⟩ :=
    execAll_allOk_newEvents (is := sendNibble rs rw n) (by simp [sendNibble, Instr.IsCommand]) hacc hok
  exact ⟨t, ht, hbytes, hlatch, hr⟩

/-- Settles O32, call by call: the numbers are looked at in the order address, positions. -/
theorem callsOutsideTheirTypes : Obligations.CallsOutsideTheirTypes := by
  refine ⟨fun _ _ => rfl, fun a c s ha => execCall_address_out_of_range c s ha,
    fun a rs rw e d4 d5 d6 d7 bl s ha hpos => ?_, execCall_override_toNat, fun a s => ?_, fun _ _ _ => rfl, fun _ => rfl,
    fun _ _ => rfl⟩
  · rw [execCall_position_out_of_range ha hpos]
    split
    · next hp => exact ⟨_, if_pos hp, rfl, rfl, rfl⟩
    · next hp => exact if_neg hp
  · exact (if_pos a.isLt).trans (by rw [BitVec.ofNat_toNat, BitVec.setWidth_eq])

/-- Settles O33: an idle block takes the first request. -/
theorem stepRunsThePresentedOperation : Obligations.StepRunsThePresentedOperation := by
  intro s r rest hp hr
  rw [step_of_idle hp, takeRequest_of_cons hr]

/-- Settles O34: the word is placed in front of the requests, and taken from there. -/
theorem placedWordIsRun : Obligations.PlacedWordIsRun := by
  intro s nbits w i h
  obtain ⟨r, hr, rfl⟩ := decodeTableWord_eq_some h
  have hplaced : s.withFetchWord nbits w = present r s := by simp only [State.withFetchWord, fetchWord, hr]
  rw [hplaced, step_of_idle rfl, takeRequest_of_cons rfl]
  rfl

/-- Settles O46: the reset state is idle, with a valid PinMap, an empty trace and no listed pins. -/
theorem resetMeetsInvariants : Obligations.ResetMeetsInvariants :=
  ⟨reset_mem_wf, ⟨defaultPinMap_valid, fun hp => absurd rfl hp⟩, List.forall_mem_nil _, by simp [PinsHoldLast, State.reset],
    by simp [StrobeShape, State.reset]⟩

/-- Settles O47: construction with the valid default writes every field that reset gives another value than power-on. -/
theorem resetIsConstructionWithTheDefault : Obligations.ResetIsConstructionWithTheDefault :=
  ⟨rfl, rfl, rfl, rfl, rfl, exec_configureDefault_idle Config.addr rfl⟩

end Sys2Proof.Machine
